-- ==== Sys2Proof/Word.lean ====
section
/-! DEFINITION. The word types: bytes and characters, the 16-bit product ID, the 32-bit target address. -/

namespace Sys2Proof

/-- A byte, 8 bits, unsigned (00_scope.md R15); also a character of the image text (R17). -/
abbrev Byte := BitVec 8

/-- A 16-bit value: the product ID (10_state.md R28). -/
abbrev Half := BitVec 16

/-- A 32-bit target address (20_memory.md R50). -/
abbrev Word := BitVec 32

/-- One line of the image text, without its terminator (20_memory.md R59). -/
abbrev Line := List Byte

end Sys2Proof
end

