-- ==== Sys2Proof/Config.lean ====
section
/-! DEFINITION. What is fixed for a machine: the constants of 00_scope.md R7, the parameters of R8 as one record, and the
free values: what the spec leaves to the environment or calls unspecified. -/

namespace Sys2Proof

/-- What the transport answers to one `TxWrite` (20_memory.md R51). -/
inductive TxAnswer where
  /-- every byte was taken -/
  | ok
  /-- a short write; fewer bytes were taken than asked, the number is `taken` reduced below the length (U3) -/
  | error (taken : Nat)
  deriving DecidableEq, Repr, Inhabited

/-- One thing the receive side shows: a byte that can be read, a wait that ran out, a transport failure
(20_memory.md R52, R53, R55). -/
inductive RxEvent where
  | byte (b : Byte)
  | timedOut
  | error
  deriving DecidableEq, Repr, Inhabited

/-- The configuration record `CFG` (00_scope.md R7, R8; 10_state.md R37): the parameters that may vary. -/
structure Cfg where
  /-- `MAX_ATTEMPTS` -/
  maxAttempts : Nat
  /-- `T_SYNC`, ms -/
  tSync : Nat
  /-- `T_RESP`, ms -/
  tResp : Nat
  /-- `LINE_MAX`, characters -/
  lineMax : Nat
  /-- `HEX_LOWER` -/
  hexLower : Bool
  /-- `SYNC_RX_ERROR_FATAL` -/
  syncRxErrorFatal : Bool
  deriving DecidableEq, Repr

/-- The defaults of 00_scope.md R7 and R8. -/
def Cfg.default : Cfg where
  maxAttempts := 50
  tSync := 100
  tResp := 100
  lineMax := 255
  hexLower := true
  syncRxErrorFatal := false

/-- The constraints of 92_eei_decisions.md, "Points left OPEN as parameters". -/
abbrev Cfg.wf (c : Cfg) : Prop := c.tSync ≠ 0 ∧ c.tResp ≠ 0 ∧ 142 ≤ c.lineMax

namespace Config

/-- `SYNC_BYTE` (R7). -/
def syncByte : Byte := 0x7F
/-- `ACK` (R7). -/
def ackByte : Byte := 0x79
/-- `CMD_GETVER` (R7). -/
def cmdGetver : Byte := 0x01
/-- `CMD_GETID` (R7). -/
def cmdGetid : Byte := 0x02
/-- `CMD_WRMEM` (R7). -/
def cmdWrmem : Byte := 0x31
/-- `CMD_GO` (R7). -/
def cmdGo : Byte := 0x21
/-- `TAG`, first character `S` (R7, R17). -/
def tagS : Byte := 0x53
/-- `TAG`, second character `3` (R7, R17). -/
def tag3 : Byte := 0x33
/-- `T_CTRL`, ms (R7). -/
def tCtrl : Nat := 100
/-- `T_DATA`, ms (R7). -/
def tData : Nat := 500
/-- `MAX_DATA` (R7). -/
def maxData : Nat := 64
/-- `LEN_OVERHEAD` (R7). -/
def lenOverhead : Nat := 5
/-- `RESP_LEN` (R7). -/
def respLen : Nat := 4
/-- `ENTRY_DEFAULT` (R7). -/
def entryDefault : Word := 0

/-- Free value: the answer to a `TxWrite` the schedule says nothing of (R12, U1; log 3). -/
opaque freeTx : Nat → TxAnswer
/-- Free value: what the receive side shows when the schedule says nothing (R12, U1; log 3). -/
opaque freeRx : Nat → RxEvent
/-- Free value: what an unpolled, blocking read gives when the schedule says nothing, a byte or an error (R53; log 5). -/
opaque freeRead : Nat → Option Byte
/-- Free value: `REC_ADDR` after a skipped line (10_state.md R29, 42_record_decoder.md R149; log 9). -/
opaque freeAddr : Nat → Word
/-- Free value: `REC_LEN` after a skipped line, any 7-bit value (R29, R149; log 9). -/
opaque freeLen : Nat → Fin 128
/-- Free value: `LEN_FIELD` after a skipped line (R29, R149; log 9). -/
opaque freeLenField : Nat → Byte
/-- Free value: `REC_DATA` where no rule gives its elements (R29, R32, R149; log 9). -/
opaque freeBuf : Nat → Vector Byte 64
/-- Free value: `REC_ADDR` as an operation takes it while `REC_VALID = 0` (10_state.md R44, U2; log 13). -/
opaque anyAddr : Nat → Word
/-- Free value: `REC_LEN` as an operation takes it while `REC_VALID = 0` (R44, U2; log 13). -/
opaque anyLen : Nat → Fin 65
/-- Free value: `REC_DATA` as an operation takes it while `REC_VALID = 0` (R44, U2; log 13). -/
opaque anyBuf : Nat → Vector Byte 64

end Config

end Sys2Proof
end

