-- ==== Sys2Proof/Syntax.lean ====
section
/-! DEFINITION. The operations of the engine: one constructor of `Instr` for each row of spec/opcode_table.json, and the
enumerations they are written with. -/

namespace Sys2Proof

/-- The phases, the values of `PH` (10_state.md R21). -/
inductive Phase where
  | idle | sync | getverCmd | getverResp | getidCmd | getidResp | fetch
  | wrCmd | wrAddr | wrData | goCmd | goAddr | done | fail
  deriving DecidableEq, Repr, Inhabited

/-- The values of `FAIL_CLASS` (10_state.md R34). -/
inductive FailClass where
  | none | nack | timeout | io | syncExhausted
  deriving DecidableEq, Repr, Inhabited

/-- The reasons of a skip (42_record_decoder.md R151). -/
inductive SkipReason where
  | tag | hdr | len | data
  deriving DecidableEq, Repr, Inhabited

/-- The two reply timeouts of an exchange, `T_CTRL` and `T_DATA` (41_exchange.md R121, R128). -/
inductive ReplyTimeout where
  | ctrl | data
  deriving DecidableEq, Repr, Inhabited

/-- The seven formats of 30_encoding.md R80. -/
inductive Format where
  /-- bare unit -/
  | u8
  /-- command frame -/
  | cf
  /-- address frame -/
  | af
  /-- data frame -/
  | df
  /-- reply byte -/
  | rb
  /-- response block -/
  | rs
  /-- image line -/
  | ln
  deriving DecidableEq, Repr, Inhabited

/-- The operations, in the order of spec/opcode_table.json. An address or data frame carries its operand; the sequencer
reads it from `REC_ADDR`, `REC_DATA`, `ENTRY_ADDR` when it selects the operation (log 18). -/
inductive Instr where
  /-- `SYNC`, 40_synchronizer.md R110 -/
  | sync
  /-- `GETVER.CMD`, 43_orchestrator.md R162 -/
  | getverCmd
  /-- `GETVER.RESP`, R164 -/
  | getverResp
  /-- `GETID.CMD`, R165 -/
  | getidCmd
  /-- `GETID.RESP`, R166, R167 -/
  | getidResp
  /-- `RDRESP`, R163 -/
  | rdresp
  /-- `WRMEM.CMD`, R170 -/
  | wrmemCmd
  /-- `WRMEM.ADDR`, R171; `a` is `REC_ADDR` -/
  | wrmemAddr (a : Word)
  /-- `WRMEM.DATA`, R172; `d` is `REC_DATA[0..REC_LEN]` -/
  | wrmemData (d : List Byte)
  /-- `GO.CMD`, R176 -/
  | goCmd
  /-- `GO.ADDR`, R177; `e` is the entry address -/
  | goAddr (e : Word)
  /-- `XCHG`, 41_exchange.md R121 -/
  | xchg (payload : List Byte) (t : ReplyTimeout)
  /-- `ACK`, the reply byte `0x79`, R126 -/
  | ack
  /-- `NACK`, any other reply byte, R126 -/
  | nack (b : Byte)
  /-- `BLANK`, 42_record_decoder.md R142 -/
  | blank
  /-- `SKIP.TAG`, R143 -/
  | skipTag
  /-- `SKIP.HDR`, R144 -/
  | skipHdr
  /-- `SKIP.LEN`, R146 -/
  | skipLen
  /-- `SKIP.DATA`, R148 -/
  | skipData
  /-- `REC`, R150; the length field is `d.length + 5` -/
  | record (a : Word) (d : List Byte)
  /-- `START`, 43_orchestrator.md R168; `img` is `IMG_PRESENT_IN` -/
  | start (img : Bool)
  /-- `FETCH`, R169 -/
  | fetch
  /-- `DECODE`, 42_record_decoder.md R141 -/
  | decode
  /-- `FINISH`, 43_orchestrator.md R178 -/
  | finish
  /-- `FATAL`, 60_exceptions.md R200 -/
  | fatal (step : Phase) (cls : FailClass)
  deriving DecidableEq, Repr

/-- The format of a row's words; the control input and the internal rows have none (spec/opcode_table.json). An `XCHG` run by
itself has no position in the sequence to tell `CF`, `AF` and `DF` apart (30_encoding.md R91); the model labels it `DF` if its
timeout is `T_DATA`, which the data frame alone has (41_exchange.md R128), else by its length (log 31). No step reads the label. -/
def Instr.format : Instr → Option Format
  | .sync => some .u8
  | .getverCmd => some .cf
  | .getverResp => some .rs
  | .getidCmd => some .cf
  | .getidResp => some .rs
  | .rdresp => some .rs
  | .wrmemCmd => some .cf
  | .wrmemAddr _ => some .af
  | .wrmemData _ => some .df
  | .goCmd => some .cf
  | .goAddr _ => some .af
  | .xchg _ .data => some .df
  | .xchg p .ctrl => if p.length = 1 then some .cf else if p.length = 4 then some .af else some .df
  | .ack => some .rb
  | .nack _ => some .rb
  | .blank => some .ln
  | .skipTag => some .ln
  | .skipHdr => some .ln
  | .skipLen => some .ln
  | .skipData => some .ln
  | .record _ _ => some .ln
  | .start _ => none
  | .fetch => none
  | .decode => some .ln
  | .finish => none
  | .fatal _ _ => none

end Sys2Proof
end

