-- ==== Sys2Proof/Machine/Operands.lean ====
section
/-! DEFINITION. Operand assembly and the checksum, as pure functions: hex digits, big-endian fields, frame payloads
(30_encoding.md R86, R87, R90; 41_exchange.md R122; 20_memory.md R61 to R64). -/

namespace Sys2Proof.Machine

/-- `xorfold` (00_scope.md R16): exclusive or of all bytes, `0x00` for none. -/
def xorfold : List Byte → Byte
  | [] => 0
  | b :: bs => b ^^^ xorfold bs

/-- `cks`, the frame checksum (41_exchange.md R122): by the LENGTH of the payload. -/
def cks : List Byte → Byte
  | [b] => 0xFF - b
  | bs => xorfold bs

/-- `be32` (00_scope.md R16, 20_memory.md R61). -/
def be32 (a : Word) : List Byte :=
  [a.extractLsb' 24 8, a.extractLsb' 16 8, a.extractLsb' 8 8, a.extractLsb' 0 8]

/-- A 32-bit value from its four bytes, most significant first (30_encoding.md R90 (c)). -/
def ofBe32 (b3 b2 b1 b0 : Byte) : Word := b3 ++ b2 ++ b1 ++ b0

/-- `hexval` (30_encoding.md R86); `none` is `bad`. `lower` is `HEX_LOWER`. -/
def hexval (lower : Bool) (c : Byte) : Option Byte :=
  if 0x30 ≤ c ∧ c ≤ 0x39 then some (c - 0x30)
  else if 0x41 ≤ c ∧ c ≤ 0x46 then some (c - 0x37)
  else if lower ∧ 0x61 ≤ c ∧ c ≤ 0x66 then some (c - 0x57)
  else none

/-- `hexbyte` (30_encoding.md R87): high nibble first, exactly two characters. -/
def hexbyte (lower : Bool) (c1 c2 : Byte) : Option Byte :=
  match hexval lower c1, hexval lower c2 with
  | some h, some l => some (h * 16 + l)
  | _, _ => none

/-- The first `n` bytes written as hex pairs at the head of a text; `none` where a character is missing or is no digit
(42_record_decoder.md R148). -/
def hexPairs (lower : Bool) : Nat → Line → Option (List Byte)
  | 0, _ => some []
  | n + 1, c1 :: c2 :: cs =>
    match hexbyte lower c1 c2, hexPairs lower n cs with
    | some b, some bs => some (b :: bs)
    | _, _ => none
  | _ + 1, _ => none

/-- The wire length byte `N = (REC_LEN - 1) mod 256` (30_encoding.md R84, R90 (e)). -/
def lengthByte (len : Nat) : Byte := BitVec.ofNat 8 len - 1

/-- The payload of a data frame (43_orchestrator.md R172). -/
def dataPayload (d : List Byte) : List Byte := lengthByte d.length :: d

/-- A frame: a unit followed by its checksum byte (00_scope.md R18). -/
def frame (payload : List Byte) : List Byte := payload ++ [cks payload]

/-- `RESP` from the bytes of a response read (43_orchestrator.md R163); a read that answered `ok` has four. -/
def respOf (bs : List Byte) : Vector Byte 4 := #v[bs.getD 0 0, bs.getD 1 0, bs.getD 2 0, bs.getD 3 0]

/-- The version byte of a response block (30_encoding.md R89, R90 (g)). -/
def versionOf (r : Vector Byte 4) : Byte := r[0]

/-- The major version, `VER[7:4]` (10_state.md R27). -/
def versionMajor (v : Byte) : BitVec 4 := v.extractLsb' 4 4

/-- The minor version, `VER[3:0]` (10_state.md R27). -/
def versionMinor (v : Byte) : BitVec 4 := v.extractLsb' 0 4

/-- The product ID of a response block, `RESP[1] * 256 + RESP[2]` (10_state.md R28, 20_memory.md R63). -/
def productIdOf (r : Vector Byte 4) : Half := r[1].setWidth 16 * 256 + r[2].setWidth 16

/-- The reply timeout in ms (41_exchange.md R128). -/
def replyMs : ReplyTimeout → Nat
  | .ctrl => Config.tCtrl
  | .data => Config.tData

/-- A buffer whose first elements are `d` and whose others are those of `v` (10_state.md R32). -/
def overlay (d : List Byte) (v : Vector Byte 64) : Vector Byte 64 :=
  Vector.ofFn fun i => (d[i.val]?).getD v[i]

end Sys2Proof.Machine
end

