-- ==== Sys2Proof/Decode.lean ====
section
/-! DEFINITION. The decoder: image lines (42_record_decoder.md R141), wire units and frames by their position in the
sequence (30_encoding.md R91), reply bytes and response blocks (R92, R89); then the encoder, from the same tables; then the
table's own numbering of words. -/

namespace Sys2Proof

open Sys2Proof.Machine

/-- The verdict on one image line (42_record_decoder.md R140). -/
inductive Verdict where
  | nothing
  | skip (r : SkipReason)
  | record (a : Word) (d : List Byte)
  deriving DecidableEq, Repr

/-- The data field, once the header is read: `n` hex pairs (R148, R150). -/
def decodeData (lower : Bool) (a : Word) (n : Nat) (body : Line) : Verdict :=
  match hexPairs lower n body with
  | some d => .record a d
  | none => .skip .data

/-- The length test on integers (R146), then the data. -/
def decodeLength (lower : Bool) (lf : Byte) (a : Word) (body : Line) : Verdict :=
  let n : Int := (lf.toNat : Int) - Config.lenOverhead
  if n < 0 ∨ n > Config.maxData then .skip .len else decodeData lower a n.toNat body

/-- The header: length field, then address, both decoded before the length is judged (R144). -/
def decodeHeader (lower : Bool) : Line → Verdict
  | l1 :: l0 :: c7 :: c6 :: c5 :: c4 :: c3 :: c2 :: c1 :: c0 :: body =>
    match hexbyte lower l1 l0, hexbyte lower c7 c6, hexbyte lower c5 c4, hexbyte lower c3 c2, hexbyte lower c1 c0 with
    | some lf, some a3, some a2, some a1, some a0 => decodeLength lower lf (ofBe32 a3 a2 a1 a0) body
    | _, _, _, _, _ => .skip .hdr
  | _ => .skip .hdr

/-- `DECODE`'s verdict on a line (R141); the tests in the order of 30_encoding.md R93. -/
def decodeLine (lower : Bool) : Line → Verdict
  | [] => .nothing
  | c0 :: c1 :: rest => if c0 = Config.tagS ∧ c1 = Config.tag3 then decodeHeader lower rest else .skip .tag
  | [_] => .skip .tag

/-- The line form, one of six, that a verdict stands for (30_encoding.md R93). -/
def Verdict.form : Verdict → Instr
  | .nothing => .blank
  | .skip .tag => .skipTag
  | .skip .hdr => .skipHdr
  | .skip .len => .skipLen
  | .skip .data => .skipData
  | .record a d => .record a d

/-- Where a word stands; address frames, data frames and response blocks are told apart by position, not by content
(30_encoding.md R91). -/
inductive Position where
  /-- a unit selected by its first byte: the sync byte or a command frame -/
  | unit
  /-- after an acknowledged `WRMEM.CMD` -/
  | wrAddr
  /-- after an acknowledged `WRMEM.ADDR` -/
  | wrData
  /-- after an acknowledged `GO.CMD` -/
  | goAddr
  /-- any frame, read as one exchange with its reply timeout -/
  | exchange (t : ReplyTimeout)
  /-- the reply byte -/
  | reply
  /-- the block after `GETVER.CMD`'s reply -/
  | verBlock
  /-- the block after `GETID.CMD`'s reply -/
  | idBlock
  /-- a response block, whichever -/
  | block
  /-- an image line -/
  | line
  deriving DecidableEq, Repr

/-- Why the decoder refuses a word. -/
inductive DecodeError where
  /-- no word at this position has this many bytes (30_encoding.md R94) -/
  | badLength
  /-- no unit begins so (30_encoding.md R98) -/
  | unknownUnit
  /-- the last byte is not the checksum of the bytes before it (41_exchange.md R122) -/
  | badChecksum
  /-- the length byte is not the one of the data that follow (30_encoding.md R84) -/
  | badLengthByte
  deriving DecidableEq, Repr

/-- What the decoder answers. -/
inductive Decoded where
  | ok (i : Instr)
  | rejected (e : DecodeError)
  deriving DecidableEq, Repr

/-- The command of a command frame by its code (30_encoding.md R82, R91). -/
def commandOf (c : Byte) : Option Instr :=
  if c = Config.cmdGetver then some .getverCmd
  else if c = Config.cmdGetid then some .getidCmd
  else if c = Config.cmdWrmem then some .wrmemCmd
  else if c = Config.cmdGo then some .goCmd
  else none

/-- A unit selected by its first byte (R81, R82, R91). -/
def decodeUnit : List Byte → Decoded
  | [b] => if b = Config.syncByte then .ok .sync else .rejected .unknownUnit
  | [c, k] =>
    match commandOf c with
    | some i => if k = cks [c] then .ok i else .rejected .badChecksum
    | none => .rejected .unknownUnit
  | _ => .rejected .badLength

/-- An address frame (R83), read into the operation its position gives. -/
def decodeAddr (f : Word → Instr) : List Byte → Decoded
  | [b3, b2, b1, b0, k] =>
    if k = cks [b3, b2, b1, b0] then .ok (f (ofBe32 b3 b2 b1 b0)) else .rejected .badChecksum
  | _ => .rejected .badLength

/-- A data frame (R84): 0 to 64 data bytes between the length byte and the checksum. -/
def decodeDataFrame (bs : List Byte) : Decoded :=
  if bs.length < 2 ∨ Config.maxData + 2 < bs.length then .rejected .badLength
  else if bs.getLastD 0 ≠ cks bs.dropLast then .rejected .badChecksum
  else if bs.headD 0 ≠ lengthByte (bs.length - 2) then .rejected .badLengthByte
  else .ok (.wrmemData bs.dropLast.tail)

/-- Any frame, read as one exchange (41_exchange.md R121). -/
def decodeExchange (t : ReplyTimeout) (bs : List Byte) : Decoded :=
  if bs.length < 2 ∨ Config.maxData + 2 < bs.length then .rejected .badLength
  else if bs.getLastD 0 ≠ cks bs.dropLast then .rejected .badChecksum
  else .ok (.xchg bs.dropLast t)

/-- A reply byte (30_encoding.md R92). -/
def decodeReply : List Byte → Decoded
  | [b] => if b = Config.ackByte then .ok .ack else .ok (.nack b)
  | _ => .rejected .badLength

/-- A response block: four bytes, none of them checked (30_encoding.md R89). -/
def decodeBlock (i : Instr) (bs : List Byte) : Decoded :=
  if bs.length = Config.respLen then .ok i else .rejected .badLength

/-- The decoder, total: the operation a word stands for at a position, or why it is none. `lower` is `HEX_LOWER`. -/
def decode (lower : Bool) : Position → List Byte → Decoded
  | .unit, bs => decodeUnit bs
  | .wrAddr, bs => decodeAddr .wrmemAddr bs
  | .wrData, bs => decodeDataFrame bs
  | .goAddr, bs => decodeAddr .goAddr bs
  | .exchange t, bs => decodeExchange t bs
  | .reply, bs => decodeReply bs
  | .verBlock, bs => decodeBlock .getverResp bs
  | .idBlock, bs => decodeBlock .getidResp bs
  | .block, bs => decodeBlock .rdresp bs
  | .line, bs => .ok (decodeLine lower bs).form

/-- One hex digit in upper case (30_encoding.md R86). -/
def hexDigit (n : BitVec 4) : Byte :=
  if n.toNat < 10 then 0x30 + n.setWidth 8 else 0x37 + n.setWidth 8

/-- A byte as two hex digits, high nibble first (30_encoding.md R87). -/
def hexOf (b : Byte) : Line := [hexDigit (b.extractLsb' 4 4), hexDigit (b.extractLsb' 0 4)]

/-- Bytes as hex digits. -/
def hexOfAll : List Byte → Line
  | [] => []
  | b :: bs => hexOf b ++ hexOfAll bs

/-- The record line of 30_encoding.md R85, without the checksum pair, which is never read and need not be there (R97). -/
def recordLine (a : Word) (d : List Byte) : Line :=
  [Config.tagS, Config.tag3] ++ hexOf (BitVec.ofNat 8 (d.length + Config.lenOverhead)) ++ hexOfAll (be32 a) ++ hexOfAll d

/-- The encoder: the words of a row and the position they stand at; none for the rows whose encoding the table gives as
"none", and for `DECODE`, whose words are those of the six forms. A row that stands for many words (`SKIP.*`, the response
blocks) has a shortest one here (log 25). -/
def encode : Instr → Option (Position × List Byte)
  | .sync => some (.unit, [Config.syncByte])
  | .getverCmd => some (.unit, frame [Config.cmdGetver])
  | .getverResp => some (.verBlock, [0, 0, 0, 0])
  | .getidCmd => some (.unit, frame [Config.cmdGetid])
  | .getidResp => some (.idBlock, [0, 0, 0, 0])
  | .rdresp => some (.block, [0, 0, 0, 0])
  | .wrmemCmd => some (.unit, frame [Config.cmdWrmem])
  | .wrmemAddr a => some (.wrAddr, frame (be32 a))
  | .wrmemData d => some (.wrData, frame (dataPayload d))
  | .goCmd => some (.unit, frame [Config.cmdGo])
  | .goAddr e => some (.goAddr, frame (be32 e))
  | .xchg p t => some (.exchange t, frame p)
  | .ack => some (.reply, [Config.ackByte])
  | .nack b => some (.reply, [b])
  | .blank => some (.line, [])
  | .skipTag => some (.line, [Config.tagS])
  | .skipHdr => some (.line, [Config.tagS, Config.tag3])
  | .skipLen => some (.line, [Config.tagS, Config.tag3] ++ hexOfAll [0, 0, 0, 0, 0])
  | .skipData => some (.line, [Config.tagS, Config.tag3] ++ hexOfAll [6, 0, 0, 0, 0])
  | .record a d => some (.line, recordLine a d)
  | .start _ => none
  | .fetch => none
  | .decode => none
  | .finish => none
  | .fatal _ _ => none

/-- The bytes of a number of `n` bytes, the most significant first: the table writes a word's bytes in the order they are
sent, byte 0 first, and reads the whole as one number (log 1). -/
def bytesOfWord : Nat → Nat → List Byte
  | 0, _ => []
  | n + 1, w => bytesOfWord n (w / 256) ++ [BitVec.ofNat 8 w]

/-- The first of two readings that the decoder takes. -/
def firstOk : Decoded → Decoded → Option Instr
  | .ok i, _ => some i
  | .rejected _, .ok i => some i
  | .rejected _, .rejected _ => none

/-- The operation the decoder reads from a table word of `nbits` bits. The position is the one the table's row of that width
gives: `0x7F` alone is a unit and any other byte a reply; two bytes are a command frame; four a response block; five an
address frame; any other length, and a word the row's format refuses, a data frame (log 1). -/
def decodeTableWord (nbits w : Nat) : Option Instr :=
  let bs := bytesOfWord (nbits / 8) w
  if nbits % 8 ≠ 0 then none
  else if nbits = 8 then firstOk (decodeUnit bs) (decodeReply bs)
  else if nbits = 16 then firstOk (decodeUnit bs) (decodeDataFrame bs)
  else if nbits = 32 then firstOk (decodeBlock .rdresp bs) (.rejected .badLength)
  else if nbits = 40 then firstOk (decodeAddr .wrmemAddr bs) (decodeDataFrame bs)
  else firstOk (decodeDataFrame bs) (.rejected .badLength)

end Sys2Proof
end

