-- ==== Sys2Proof/Machine/State.lean ====
section
/-! DEFINITION. The state of the engine: every register of 10_state.md R20, the ghost records of R40, the configuration, what
the environment has ready to answer; the reset state; why a step can stop. -/

namespace Sys2Proof.Machine

/-- DOC1's ExchangeOutcome, the values of `OUTCOME` (10_state.md R24). -/
inductive ExchangeOutcome where
  | acknowledged | negativeAcknowledged | timedOut | ioFailure
  deriving DecidableEq, Repr, Inhabited

/-- The values of `EXIT_STATUS` (10_state.md R34). -/
inductive ExitStatus where
  /-- 0 -/
  | success
  /-- 1, the wrapper's; the engine never writes it (60_exceptions.md R195) -/
  | usageOrSetup
  /-- 2 -/
  | protocolFailure
  deriving DecidableEq, Repr, Inhabited

/-- The values of `ERR_KIND` (10_state.md R34). -/
inductive ErrKind where
  | none | link | protocol
  deriving DecidableEq, Repr, Inhabited

/-- The answer of one `RxRead` (00_scope.md R10). -/
inductive RxAnswer where
  | ok (bs : List Byte)
  | timedOut
  | error
  deriving DecidableEq, Repr, Inhabited

/-- What a `Report` carries (60_exceptions.md R204). -/
inductive ReportKind where
  | version (v : Byte)
  | productId (p : Half)
  | success
  deriving DecidableEq, Repr

/-- One request with its answer, an entry of `TRACE` (00_scope.md R10, R11; 10_state.md R40). -/
inductive Event where
  /-- `TxWrite(bs)`; `ok` is its answer -/
  | txWrite (bs : List Byte) (ok : Bool)
  /-- `RxRead(n, t)` -/
  | rxRead (n t : Nat) (answer : RxAnswer)
  /-- `ImgNext()`; `none` is `eof` -/
  | imgNext (answer : Option Line)
  /-- `Diag(SKIP, reason, LN)` -/
  | diagSkip (reason : SkipReason) (ln : Nat)
  /-- `Diag(FATAL, step, class)` -/
  | diagFatal (step : Phase) (cls : FailClass)
  /-- `Report(kind, value)` -/
  | report (r : ReportKind)
  /-- `Release()` -/
  | release
  deriving DecidableEq, Repr

/-- The control inputs at one operation boundary (10_state.md R38; log 15). -/
inductive Ctl where
  /-- no input -/
  | quiet
  /-- `START`. `none` is `IMG_PRESENT_IN = 0`; `some ls` is `IMG_PRESENT_IN = 1`, `ls` being the lines of the image the host has
  opened for the session (70_reset_and_hazards.md R224 duty 3, R227; log 32) -/
  | start (image : Option (List Line))
  /-- `RESET` -/
  | reset
  deriving DecidableEq, Repr

/-- Why the machine stops with a fault: never. Every fatal condition of the spec is the abort path, a next state
(60_exceptions.md R200), and every register holds a value or is read as a free one (log 13). -/
inductive Fault where
  deriving DecidableEq, Repr

/-- Why the machine refuses a run. -/
inductive Refusal where
  /-- Raised by an arm of `exec` that has no meaning yet. Safe. -/
  | notModelled (mnemonic : String)
  /-- Raised by `FETCH` when the host delivers a line over `LINE_MAX` (20_memory.md R59, 93_implementation_defined.md U4:
  "refuse"). Safe. -/
  | lineTooLong
  /-- Raised by the step when `RESET` is asserted in a session (70_reset_and_hazards.md R222, U7: "refuse"). Safe. -/
  | resetInSession
  deriving DecidableEq, Repr

structure State where
  /-- `PH` (R21) -/
  ph : Phase
  /-- `LN` (R22) -/
  ln : Nat
  /-- `ATT` (R23) -/
  att : Nat
  /-- the valid bit of `OUTCOME` (R24) -/
  outcomeValid : Bool
  /-- `OUTCOME` (R24) -/
  outcome : ExchangeOutcome
  /-- `IMG_PRESENT` (R25) -/
  imgPresent : Bool
  /-- `ENTRY_VALID` (R26) -/
  entryValid : Bool
  /-- `ENTRY_ADDR` (R26) -/
  entryAddr : Word
  /-- `VER_VALID` (R27) -/
  verValid : Bool
  /-- `VER` (R27) -/
  ver : Byte
  /-- `PID_VALID` (R28) -/
  pidValid : Bool
  /-- `PID` (R28) -/
  pid : Half
  /-- `REC_VALID` (R29) -/
  recValid : Bool
  /-- `REC_ADDR` (R29) -/
  recAddr : Word
  /-- `REC_LEN` (R29) -/
  recLen : Nat
  /-- `LEN_FIELD` (R29) -/
  lenField : Byte
  /-- `CKS` (R30) -/
  cks : Byte
  /-- `RESP[0..3]` (R31) -/
  resp : Vector Byte 4
  /-- `REC_DATA[0..63]` (R32) -/
  recData : Vector Byte 64
  /-- `LB` (R33) -/
  lb : Line
  /-- `LB_LEN` (R33) -/
  lbLen : Nat
  /-- `EXIT_STATUS` (R34) -/
  exitStatus : ExitStatus
  /-- `FAIL_STEP` (R34), `none` for code 0 -/
  failStep : Option Phase
  /-- `FAIL_CLASS` (R34) -/
  failClass : FailClass
  /-- `ERR_KIND` (R34) -/
  errKind : ErrKind
  /-- `HELD` (R35) -/
  held : Bool
  /-- the configuration `CFG` (R37) -/
  cfg : Cfg
  /-- ghost `TRACE` (R40), oldest first -/
  trace : List Event
  /-- ghost `WLOG` (R40), oldest first -/
  wlog : List (Word × List Byte)
  /-- ghost `TX`: the bytes the transport has taken, in order (20_memory.md R50, U3) -/
  tx : List Byte
  /-- control inputs to come, one entry an operation boundary (R38) -/
  ctl : List Ctl
  /-- answers to coming `TxWrite` requests -/
  txIn : List TxAnswer
  /-- what the receive side will show, in order -/
  rxIn : List RxEvent
  /-- image lines not yet fetched (20_memory.md R59) -/
  img : List Line
  /-- the model's own: where the next free value is taken (log 3) -/
  draws : Nat
  /-- the model's own: an operation called by itself (log 16) -/
  call : Option Instr
  deriving DecidableEq, Repr

/-- The machine after `RESET` (10_state.md R43); the values R43 leaves unspecified are named in log 8. -/
def State.reset : State where
  ph := .idle
  ln := 0
  att := 0
  outcomeValid := false
  outcome := .acknowledged
  imgPresent := false
  entryValid := false
  entryAddr := 0
  verValid := false
  ver := 0
  pidValid := false
  pid := 0
  recValid := false
  recAddr := 0
  recLen := 0
  lenField := 0
  cks := 0
  resp := Vector.replicate 4 0
  recData := Vector.replicate 64 0
  lb := []
  lbLen := 0
  exitStatus := .success
  failStep := none
  failClass := .none
  errKind := .none
  held := false
  cfg := Cfg.default
  trace := []
  wlog := []
  tx := []
  ctl := []
  txIn := []
  rxIn := []
  img := []
  draws := 0
  call := none

end Sys2Proof.Machine
end

