-- ==== Sys2Proof/Machine/Flags.lean ====
section
/-! DEFINITION. How the flags and the status group are computed: the outcome of an exchange, the class and kind of a failure,
which phases are in a session, and the numeric codes a host reads. -/

namespace Sys2Proof.Machine

/-- Reply classification (41_exchange.md R126): the whole byte is compared. -/
def classify : RxAnswer → ExchangeOutcome
  | .ok bs => if bs = [Config.ackByte] then .acknowledged else .negativeAcknowledged
  | .timedOut => .timedOut
  | .error => .ioFailure

/-- `class_of` (43_orchestrator.md R161); `none` where the sequence goes on. -/
def classOf : ExchangeOutcome → Option FailClass
  | .acknowledged => none
  | .negativeAcknowledged => some .nack
  | .timedOut => some .timeout
  | .ioFailure => some .io

/-- `kind_of` (60_exceptions.md R192). -/
def kindOf : FailClass → ErrKind
  | .none => .none
  | .nack => .protocol
  | .timeout => .protocol
  | .io => .link
  | .syncExhausted => .link

/-- The phases a session runs through, `SYNC` to `GO_ADDR` (70_reset_and_hazards.md R222). -/
def inSession : Phase → Bool
  | .idle | .done | .fail => false
  | .sync | .getverCmd | .getverResp | .getidCmd | .getidResp | .fetch => true
  | .wrCmd | .wrAddr | .wrData | .goCmd | .goAddr => true

/-- The end of a run (00_scope.md R14). -/
def terminal : Phase → Bool
  | .done | .fail => true
  | .idle | .sync | .getverCmd | .getverResp | .getidCmd | .getidResp | .fetch => false
  | .wrCmd | .wrAddr | .wrData | .goCmd | .goAddr => false

/-- The phases in which a record is being written, `WR_*`. -/
def inRecord : Phase → Bool
  | .wrCmd | .wrAddr | .wrData => true
  | .idle | .sync | .getverCmd | .getverResp | .getidCmd | .getidResp | .fetch | .goCmd | .goAddr | .done | .fail => false

/-- The codes of `PH` (10_state.md R21). -/
def phaseCode : Phase → BitVec 4
  | .idle => 0
  | .sync => 1
  | .getverCmd => 2
  | .getverResp => 3
  | .getidCmd => 4
  | .getidResp => 5
  | .fetch => 6
  | .wrCmd => 7
  | .wrAddr => 8
  | .wrData => 9
  | .goCmd => 10
  | .goAddr => 11
  | .done => 12
  | .fail => 13

/-- The codes of `OUTCOME` (10_state.md R24). -/
def outcomeCode : ExchangeOutcome → BitVec 2
  | .acknowledged => 0
  | .negativeAcknowledged => 1
  | .timedOut => 2
  | .ioFailure => 3

/-- The values of `EXIT_STATUS` (10_state.md R34). -/
def exitCode : ExitStatus → BitVec 2
  | .success => 0
  | .usageOrSetup => 1
  | .protocolFailure => 2

/-- The codes of `FAIL_STEP` (10_state.md R34). -/
def failStepCode : Option Phase → BitVec 4
  | none => 0
  | some p => phaseCode p

/-- The codes of `FAIL_CLASS` (10_state.md R34). -/
def failClassCode : FailClass → BitVec 3
  | .none => 0
  | .nack => 1
  | .timeout => 2
  | .io => 3
  | .syncExhausted => 4

/-- The codes of `ERR_KIND` (10_state.md R34). -/
def errKindCode : ErrKind → BitVec 2
  | .none => 0
  | .link => 1
  | .protocol => 2

/-- The codes of a skip's reason (42_record_decoder.md R151). -/
def skipReasonCode : SkipReason → BitVec 3
  | .tag => 1
  | .hdr => 2
  | .len => 3
  | .data => 4

/-- The address a failure leaves to be read: `REC_ADDR` if `FAIL_STEP` is `WR_*` (60_exceptions.md R193), behind `REC_VALID`. -/
def failedAddr (s : State) : Option Word :=
  match s.failStep with
  | some p => if inRecord p && s.recValid then some s.recAddr else none
  | none => none

/-- What a host may read (10_state.md R42), each value behind its guard (R43, R44). `LN` and `REC_ADDR` are internal by R42, and
60_exceptions.md R193 lets a host read them after a failure: that R193 is the exception is the model's choice (log 30). -/
structure HostView where
  ph : BitVec 4
  exitStatus : Option (BitVec 2)
  failStep : BitVec 4
  failClass : BitVec 3
  errKind : BitVec 2
  ver : Option Byte
  pid : Option Half
  entryAddr : Option Word
  /-- in `FAIL` (60_exceptions.md R193; log 30) -/
  ln : Option Nat
  /-- in `FAIL`, of a failure in `WR_*` (60_exceptions.md R193; log 30) -/
  recAddr : Option Word
  deriving DecidableEq, Repr

/-- The host's reading of a state. -/
def hostView (s : State) : HostView where
  ph := phaseCode s.ph
  exitStatus := if terminal s.ph then some (exitCode s.exitStatus) else none
  failStep := failStepCode s.failStep
  failClass := failClassCode s.failClass
  errKind := errKindCode s.errKind
  ver := if s.verValid then some s.ver else none
  pid := if s.pidValid then some s.pid else none
  entryAddr := if s.entryValid then some s.entryAddr else none
  ln := if s.ph = .fail then some s.ln else none
  recAddr := if s.ph = .fail then failedAddr s else none

end Sys2Proof.Machine
end

