-- ==== Sys2Proof/Machine/Ops.lean ====
section
/-! DEFINITION. The shared operations: the requests (20_memory.md R51 to R53, R59; 60_exceptions.md R204), the exchange
(41_exchange.md R121), CHECK (43_orchestrator.md R161), the response read (R163), the synchronizer's loop (40_synchronizer.md
R110), the record registers (42_record_decoder.md R141), the two terminal handlers (R178; 60_exceptions.md R200), RESET
(70_reset_and_hazards.md R221) and the image a START opens (R227). -/

namespace Sys2Proof.Machine

/-! ### State updates -/

/-- Append one request to `TRACE`. -/
def State.log (s : State) (e : Event) : State := { s with trace := s.trace ++ [e] }

/-- `PH <- p`. -/
def State.goto (s : State) (p : Phase) : State := { s with ph := p }

/-- `OUTCOME <- o`, with its valid bit (10_state.md R24). -/
def State.setOutcome (s : State) (o : ExchangeOutcome) : State := { s with outcomeValid := true, outcome := o }

/-- `CKS <- k`. -/
def State.setCks (s : State) (k : Byte) : State := { s with cks := k }

/-- `RESP[0..4] <- r`. -/
def State.setResp (s : State) (r : Vector Byte 4) : State := { s with resp := r }

/-! ### TxWrite -/

/-- The answer the next `TxWrite` gets: the scheduled one, else a free one (log 3). -/
def nextTx (s : State) : TxAnswer :=
  match s.txIn with
  | a :: _ => a
  | [] => Config.freeTx s.draws

/-- That answer taken. -/
def dropTx (s : State) : State :=
  match s.txIn with
  | _ :: as => { s with txIn := as }
  | [] => { s with draws := s.draws + 1 }

/-- `TxWrite(bs)` (20_memory.md R51): whether it answered `ok`, and the state after. A short write leaves the first
`k mod len` bytes on `TX` (log 7). -/
def txWrite (bs : List Byte) (s : State) : Bool × State :=
  match nextTx s with
  | .ok => (true, { (dropTx s).log (.txWrite bs true) with tx := s.tx ++ bs })
  | .error k => (false, { (dropTx s).log (.txWrite bs false) with tx := s.tx ++ bs.take (k % bs.length) })

/-! ### RxRead -/

/-- `poll_readable`'s answers (20_memory.md R52). -/
inductive Poll where
  | ready | timedOut | error
  deriving DecidableEq, Repr

/-- The receive side with something to show: what is scheduled, else one free event (log 3). -/
def refillRx (s : State) : State :=
  match s.rxIn with
  | [] => { s with rxIn := [Config.freeRx s.draws], draws := s.draws + 1 }
  | _ :: _ => s

/-- `poll_readable` (20_memory.md R52): a byte stays to be read, a timeout or an error is consumed. -/
def pollReadable (s : State) : Poll × State :=
  match (refillRx s).rxIn with
  | .timedOut :: es => (.timedOut, { refillRx s with rxIn := es })
  | .error :: es => (.error, { refillRx s with rxIn := es })
  | _ => (.ready, refillRx s)

/-- A wait that ran out, which a read that is not polled does not see (log 5). -/
def isTimedOut : RxEvent → Bool
  | .timedOut => true
  | .byte _ => false
  | .error => false

/-- One blocking underlying read, of one byte (20_memory.md R53; log 4); `none` is an error. -/
def underlyingRead (s : State) : Option Byte × State :=
  match s.rxIn.dropWhile isTimedOut with
  | .byte b :: es => (some b, { s with rxIn := es })
  | _ :: es => (none, { s with rxIn := es })
  | [] => (Config.freeRead s.draws, { s with rxIn := [], draws := s.draws + 1 })

/-- One turn of `RxRead`'s loop (20_memory.md R53): polled when the timeout is nonzero, then one underlying read. -/
def rxByte (t : Nat) (s : State) : RxEvent × State :=
  let p := if t = 0 then (.ready, s) else pollReadable s
  match p.1 with
  | .timedOut => (.timedOut, p.2)
  | .error => (.error, p.2)
  | .ready =>
    match (underlyingRead p.2).1 with
    | some b => (.byte b, (underlyingRead p.2).2)
    | none => (.error, (underlyingRead p.2).2)

/-- `RxRead`'s loop: `n` bytes still to come, `got` already read; bytes read before a failure are gone (R54). -/
def rxCollect (t : Nat) : Nat → List Byte → State → RxAnswer × State
  | 0, got, s => (.ok got, s)
  | n + 1, got, s =>
    match (rxByte t s).1 with
    | .byte b => rxCollect t n (got ++ [b]) (rxByte t s).2
    | .timedOut => (.timedOut, (rxByte t s).2)
    | .error => (.error, (rxByte t s).2)

/-- `RxRead(n, t)` (20_memory.md R53). -/
def rxRead (n t : Nat) (s : State) : RxAnswer × State :=
  let r := rxCollect t n [] s
  (r.1, r.2.log (.rxRead n t r.1))

/-! ### The two terminal handlers -/

/-- `Release()`, `HELD <- 0` (10_state.md R35). -/
def release (s : State) : State := { s.log .release with held := false }

/-- The abort path, `raise Fatal(step, class)` (60_exceptions.md R200): record, diagnostic, release, status, `FAIL`. -/
def fatal (step : Phase) (cls : FailClass) (s : State) : State :=
  let recorded := { s with failStep := some step, failClass := cls, errKind := kindOf cls }
  { release (recorded.log (.diagFatal step cls)) with exitStatus := .protocolFailure, ph := .fail }

/-- `FINISH` (43_orchestrator.md R178). -/
def finish (s : State) : State :=
  { release (s.log (.report .success)) with exitStatus := .success, ph := .done }

/-! ### The exchange -/

/-- `XCHG(payload, t)` (41_exchange.md R121, R123 to R126): the checksum's write is not looked at (R124). -/
def xchg (payload : List Byte) (t : ReplyTimeout) (s : State) : State :=
  let w := txWrite payload s
  if w.1 then
    let sent := (txWrite [cks payload] (w.2.setCks (cks payload))).2
    let r := rxRead 1 (replyMs t) sent
    r.2.setOutcome (classify r.1)
  else w.2.setOutcome .ioFailure

/-- `CHECK` (43_orchestrator.md R161), then what follows when the sequence goes on. -/
def check (next : State → State) (s : State) : State :=
  match classOf s.outcome with
  | none => next s
  | some cls => fatal s.ph cls s

/-- `XCHG(payload, t); CHECK; ...`, the form of the seven call sites (41_exchange.md R128). -/
def exchange (payload : List Byte) (t : ReplyTimeout) (next : State → State) (s : State) : State :=
  check next (xchg payload t s)

/-- `RDRESP` (43_orchestrator.md R163), then what follows when four bytes were read. -/
def readResponse (next : State → State) (s : State) : State :=
  let r := rxRead Config.respLen s.cfg.tResp s
  match r.1 with
  | .ok bs => next (r.2.setResp (respOf bs))
  | .timedOut => fatal r.2.ph .timeout r.2
  | .error => fatal r.2.ph .io r.2

/-! ### The synchronizer -/

/-- The attempts of `SYNC` still to make (40_synchronizer.md R110 to R115): each increments `ATT`, writes the sync byte and
reads one byte; a read error is fatal only under `SYNC_RX_ERROR_FATAL` (00_scope.md R8). -/
def syncLoop : Nat → State → State
  | 0, s => fatal .sync .syncExhausted s
  | k + 1, s =>
    let w := txWrite [Config.syncByte] { s with att := s.att + 1 }
    if w.1 then
      let r := rxRead 1 s.cfg.tSync w.2
      match r.1 with
      | .ok bs => if bs = [Config.ackByte] then r.2.goto .getverCmd else syncLoop k r.2
      | .timedOut => syncLoop k r.2
      | .error => if s.cfg.syncRxErrorFatal then fatal .sync .io r.2 else syncLoop k r.2
    else fatal .sync .io w.2

/-! ### The record registers -/

/-- `REC_VALID <- 0`, nothing else written (42_record_decoder.md R141). -/
def invalidate (s : State) : State := { s with recValid := false }

/-- A skipped line's effect on the record registers: `REC_VALID = 0` and the others unspecified, so free (10_state.md R29,
42_record_decoder.md R149; log 9). -/
def discardRecord (s : State) : State :=
  { s with
    recValid := false
    recAddr := Config.freeAddr s.draws
    recLen := (Config.freeLen s.draws).val
    lenField := Config.freeLenField s.draws
    recData := Config.freeBuf s.draws
    draws := s.draws + 1 }

/-- A record's effect on the record registers (R150); elements of `REC_DATA` above `REC_LEN` are unspecified, so free
(10_state.md R32; log 9). -/
def writeRecord (a : Word) (d : List Byte) (s : State) : State :=
  { s with
    recValid := true
    recAddr := a
    recLen := d.length
    lenField := BitVec.ofNat 8 (d.length + Config.lenOverhead)
    recData := overlay d (Config.freeBuf s.draws)
    draws := s.draws + 1 }

/-- `DECODE`'s effect by its verdict (R141). -/
def recordRegs (v : Verdict) (s : State) : State :=
  match v with
  | .nothing => invalidate s
  | .skip _ => discardRecord s
  | .record a d => writeRecord a d s

/-- The characters `DECODE` reads, `LB[0..LB_LEN]`: behind their length, and no other register (42_record_decoder.md R140,
10_state.md R44). -/
def lineText (s : State) : Line := s.lb.take s.lbLen

/-- `DECODE`'s verdict on the line in `LB`. -/
def lineVerdict (s : State) : Verdict := decodeLine s.cfg.hexLower (lineText s)

/-- What follows `DECODE` in the record loop, by its verdict (43_orchestrator.md R169). -/
def afterDecode (v : Verdict) (s : State) : State :=
  match v with
  | .nothing => s
  | .skip r => s.log (.diagSkip r s.ln)
  | .record _ _ => s.goto .wrCmd

/-- `ImgNext()` answered `line(cs)`: `LN <- LN + 1; LB <- cs; LB_LEN <- len(cs)` (43_orchestrator.md R169). -/
def latchLine (cs : Line) (rest : List Line) (s : State) : State :=
  { s.log (.imgNext (some cs)) with img := rest, ln := s.ln + 1, lb := cs, lbLen := cs.length }

/-- The data bytes of the record in hand, `REC_DATA[0..REC_LEN]`. -/
def recordBytes (s : State) : List Byte := s.recData.toList.take s.recLen

/-- `REC_ADDR` as an operation reads it: behind `REC_VALID`, and a free value without it (10_state.md R44,
93_implementation_defined.md U2; log 13). -/
def heldAddr (s : State) : Word := if s.recValid then s.recAddr else Config.anyAddr s.draws

/-- `REC_DATA[0..REC_LEN]` as an operation reads it: the same (log 13). -/
def heldBytes (s : State) : List Byte :=
  if s.recValid then recordBytes s else (Config.anyBuf s.draws).toList.take (Config.anyLen s.draws)

/-- The entry address as `GO.ADDR` uses it (43_orchestrator.md R177). -/
def entryOperand (s : State) : Word := if s.entryValid then s.entryAddr else Config.entryDefault

/-- `MemWrite(REC_ADDR, REC_LEN, REC_DATA[0..REC_LEN])` (43_orchestrator.md R173), the data given. -/
def memWrite (d : List Byte) (s : State) : State := { s with wlog := s.wlog ++ [(heldAddr s, d)] }

/-- The entry-address latch (43_orchestrator.md R174). -/
def latchEntry (s : State) : State :=
  if s.entryValid then s else { s with entryAddr := heldAddr s, entryValid := true }

/-! ### RESET -/

/-- `RESET` (70_reset_and_hazards.md R221): every register at its reset value, the ghosts empty; the configuration and what
the environment has ready stay (log 14). The image of the session after it comes with that session's `START` (`openImage`). -/
def resetRegs (s : State) : State :=
  { State.reset with
    cfg := s.cfg
    ctl := s.ctl
    txIn := s.txIn
    rxIn := s.rxIn
    img := s.img
    draws := s.draws
    call := s.call }

/-! ### START -/

/-- The image a `START` finds opened: where `START` is accepted its lines are what `ImgNext` delivers from then on, and what was
left of an earlier image is gone (70_reset_and_hazards.md R224 duty 3, R227; 43_orchestrator.md R168; log 32). -/
def openImage (image : Option (List Line)) (s : State) : State :=
  { s with img := if s.ph = .idle then image.getD s.img else s.img }

end Sys2Proof.Machine
end

