-- ==== Sys2Proof/Machine/Go.lean ====
section
/-! DEFINITION. The jump family: `GO.CMD`, `GO.ADDR` (43_orchestrator.md R176, R177). -/

namespace Sys2Proof.Machine

/-- `GO.CMD` (R176). -/
def execGoCmd (s : State) : Host.Outcome State Fault Refusal :=
  .next (exchange [Config.cmdGo] .ctrl (fun u => u.goto .goAddr) s)

/-- `GO.ADDR` (R177), which ends in `FINISH`. -/
def execGoAddr (e : Word) (s : State) : Host.Outcome State Fault Refusal :=
  .next (exchange (be32 e) .ctrl finish s)

end Sys2Proof.Machine
end

