-- ==== Sys2Proof/Machine/Identify.lean ====
section
/-! DEFINITION. The identification family: `GETVER.*`, `GETID.*`, `RDRESP` (43_orchestrator.md R162 to R167). -/

namespace Sys2Proof.Machine

/-- `VER <- RESP[0]; VER_VALID <- 1; Report(VERSION, VER)` (R164). -/
def latchVersion (s : State) : State :=
  { s.log (.report (.version (versionOf s.resp))) with ver := versionOf s.resp, verValid := true }

/-- `PID <- RESP[1] * 256 + RESP[2]; PID_VALID <- 1; Report(PRODUCT_ID, PID)` (R166). -/
def latchProductId (s : State) : State :=
  { s.log (.report (.productId (productIdOf s.resp))) with pid := productIdOf s.resp, pidValid := true }

/-- R167: without an image the session is over. -/
def afterIdentify (s : State) : State := if s.imgPresent then s.goto .fetch else finish s

/-- `GETVER.CMD` (R162). -/
def execGetverCmd (s : State) : Host.Outcome State Fault Refusal :=
  .next (exchange [Config.cmdGetver] .ctrl (fun u => u.goto .getverResp) s)

/-- `GETVER.RESP` (R164). -/
def execGetverResp (s : State) : Host.Outcome State Fault Refusal :=
  .next (readResponse (fun u => (latchVersion u).goto .getidCmd) s)

/-- `GETID.CMD` (R165). -/
def execGetidCmd (s : State) : Host.Outcome State Fault Refusal :=
  .next (exchange [Config.cmdGetid] .ctrl (fun u => u.goto .getidResp) s)

/-- `GETID.RESP` (R166, R167). -/
def execGetidResp (s : State) : Host.Outcome State Fault Refusal :=
  .next (readResponse (fun u => afterIdentify (latchProductId u)) s)

/-- `RDRESP` (R163). -/
def execRdresp (s : State) : Host.Outcome State Fault Refusal :=
  .next (readResponse (fun u => u) s)

end Sys2Proof.Machine
end

