-- ==== Sys2Proof/Machine/Lines.lean ====
section
/-! DEFINITION. The image-line family: `FETCH` (43_orchestrator.md R169), `DECODE` and the six line forms
(42_record_decoder.md R141 to R151). A line form's meaning is what a line of that form does in the record loop once it is
fetched: `DECODE`'s effect on the record registers, then the diagnostic or the move (log 19). -/

namespace Sys2Proof.Machine

/-- A line of verdict `v`, decoded and acted on. -/
def runVerdict (v : Verdict) (s : State) : State := afterDecode v (recordRegs v s)

/-- `BLANK` (R142). -/
def execBlank (s : State) : Host.Outcome State Fault Refusal := .next (runVerdict .nothing s)

/-- `SKIP.TAG` (R143, R151). -/
def execSkipTag (s : State) : Host.Outcome State Fault Refusal := .next (runVerdict (.skip .tag) s)

/-- `SKIP.HDR` (R144, R151). -/
def execSkipHdr (s : State) : Host.Outcome State Fault Refusal := .next (runVerdict (.skip .hdr) s)

/-- `SKIP.LEN` (R146, R151). -/
def execSkipLen (s : State) : Host.Outcome State Fault Refusal := .next (runVerdict (.skip .len) s)

/-- `SKIP.DATA` (R148, R151). -/
def execSkipData (s : State) : Host.Outcome State Fault Refusal := .next (runVerdict (.skip .data) s)

/-- `REC` (R150). -/
def execRecord (a : Word) (d : List Byte) (s : State) : Host.Outcome State Fault Refusal :=
  .next (runVerdict (.record a d) s)

/-- `DECODE` (R141): the record registers by the line in `LB`, and nothing else. -/
def execDecode (s : State) : Host.Outcome State Fault Refusal := .next (recordRegs (lineVerdict s) s)

/-- `FETCH` (43_orchestrator.md R169): one `ImgNext()`, then `DECODE` and what its verdict asks for; a line over `LINE_MAX`
is refused (20_memory.md R59, U4). -/
def execFetch (s : State) : Host.Outcome State Fault Refusal :=
  match s.img with
  | [] => .next ((s.log (.imgNext none)).goto .goCmd)
  | cs :: rest =>
    if cs.length ≤ s.cfg.lineMax then
      .next (runVerdict (lineVerdict (latchLine cs rest s)) (latchLine cs rest s))
    else .refused .lineTooLong

end Sys2Proof.Machine
end

