-- ==== Sys2Proof/Machine/Link.lean ====
section
/-! DEFINITION. The link family: `SYNC`, `XCHG`, and the reply byte as `ACK` and `NACK`. -/

namespace Sys2Proof.Machine

/-- `SYNC` (40_synchronizer.md R110): `ATT <- 0`, then the attempts. -/
def execSync (s : State) : Host.Outcome State Fault Refusal :=
  .next (syncLoop s.cfg.maxAttempts { s with att := 0 })

/-- `XCHG` (41_exchange.md R121): writes `CKS` and `OUTCOME`, and raises nothing itself. -/
def execXchg (payload : List Byte) (t : ReplyTimeout) (s : State) : Host.Outcome State Fault Refusal :=
  .next (xchg payload t s)

/-- The reply byte `0x79`: `Acknowledged` in an exchange (41_exchange.md R126), success in `SYNC` (40_synchronizer.md R115;
log 19). -/
def execAck (s : State) : Host.Outcome State Fault Refusal :=
  match s.ph with
  | .sync => .next (s.goto .getverCmd)
  | _ => .next (s.setOutcome .acknowledged)

/-- Any other reply byte: `NegativeAcknowledged` in an exchange (R126), whichever it is, and it is not kept (R131); in `SYNC`
consumed and dropped (40_synchronizer.md R113; log 19). -/
def execNack (_b : Byte) (s : State) : Host.Outcome State Fault Refusal :=
  match s.ph with
  | .sync => .next s
  | _ => .next (s.setOutcome .negativeAcknowledged)

end Sys2Proof.Machine
end

