-- ==== Sys2Proof/Machine/Session.lean ====
section
/-! DEFINITION. The session family: `START` (43_orchestrator.md R168), `FINISH` (R178), `FATAL` (60_exceptions.md R200). -/

namespace Sys2Proof.Machine

/-- `START` (R168): accepted in `IDLE`, ignored in every other phase. -/
def execStart (img : Bool) (s : State) : Host.Outcome State Fault Refusal :=
  match s.ph with
  | .idle => .next { s with imgPresent := img, held := true, ln := 0, ph := .sync }
  | _ => .next s

/-- `FINISH` (R178). -/
def execFinish (s : State) : Host.Outcome State Fault Refusal := .next (finish s)

/-- `FATAL`, the abort path (60_exceptions.md R200). -/
def execFatal (step : Phase) (cls : FailClass) (s : State) : Host.Outcome State Fault Refusal :=
  .next (fatal step cls s)

end Sys2Proof.Machine
end

