-- ==== Sys2Proof/Machine/Write.lean ====
section
/-! DEFINITION. The memory-write family: `WRMEM.CMD`, `WRMEM.ADDR`, `WRMEM.DATA` (43_orchestrator.md R170 to R174). -/

namespace Sys2Proof.Machine

/-- `WRMEM.CMD` (R170). -/
def execWrmemCmd (s : State) : Host.Outcome State Fault Refusal :=
  .next (exchange [Config.cmdWrmem] .ctrl (fun u => u.goto .wrAddr) s)

/-- `WRMEM.ADDR` (R171): the address goes out as decoded, unchecked (20_memory.md R67, R68). -/
def execWrmemAddr (a : Word) (s : State) : Host.Outcome State Fault Refusal :=
  .next (exchange (be32 a) .ctrl (fun u => u.goto .wrData) s)

/-- `WRMEM.DATA` (R172): the data exchange, then the write log (R173), the entry latch (R174) and the next line. -/
def execWrmemData (d : List Byte) (s : State) : Host.Outcome State Fault Refusal :=
  .next (exchange (dataPayload d) .data (fun u => (latchEntry (memWrite d u)).goto .fetch) s)

end Sys2Proof.Machine
end

