-- ==== Sys2Proof/Machine/Dispatch.lean ====
section
/-! DEFINITION. One arm for each operation. -/

namespace Sys2Proof.Machine

def exec (i : Instr) (s : State) : Host.Outcome State Fault Refusal :=
  match i with
  | .sync => Sys2Proof.Machine.execSync s
  | .getverCmd => Sys2Proof.Machine.execGetverCmd s
  | .getverResp => Sys2Proof.Machine.execGetverResp s
  | .getidCmd => Sys2Proof.Machine.execGetidCmd s
  | .getidResp => Sys2Proof.Machine.execGetidResp s
  | .rdresp => Sys2Proof.Machine.execRdresp s
  | .wrmemCmd => Sys2Proof.Machine.execWrmemCmd s
  | .wrmemAddr a => Sys2Proof.Machine.execWrmemAddr a s
  | .wrmemData d => Sys2Proof.Machine.execWrmemData d s
  | .goCmd => Sys2Proof.Machine.execGoCmd s
  | .goAddr e => Sys2Proof.Machine.execGoAddr e s
  | .xchg payload t => Sys2Proof.Machine.execXchg payload t s
  | .ack => Sys2Proof.Machine.execAck s
  | .nack b => Sys2Proof.Machine.execNack b s
  | .blank => Sys2Proof.Machine.execBlank s
  | .skipTag => Sys2Proof.Machine.execSkipTag s
  | .skipHdr => Sys2Proof.Machine.execSkipHdr s
  | .skipLen => Sys2Proof.Machine.execSkipLen s
  | .skipData => Sys2Proof.Machine.execSkipData s
  | .record a d => Sys2Proof.Machine.execRecord a d s
  | .start img => Sys2Proof.Machine.execStart img s
  | .fetch => Sys2Proof.Machine.execFetch s
  | .decode => Sys2Proof.Machine.execDecode s
  | .finish => Sys2Proof.Machine.execFinish s
  | .fatal step cls => Sys2Proof.Machine.execFatal step cls s

end Sys2Proof.Machine
end

