-- ==== Sys2Proof/Machine/Sequencer.lean ====
section
/-! DEFINITION. The sequencer: which operation `PH` selects, with its operands read from the registers (43_orchestrator.md
R160, R180); and where a given operation is put so that the next step selects it. -/

namespace Sys2Proof.Machine

/-- What the sequencer finds at an operation boundary. -/
inductive Selection where
  /-- the operation of the phase -/
  | op (i : Instr)
  /-- `IDLE`, `DONE`, `FAIL`: nothing to do -/
  | rest
  deriving DecidableEq, Repr

/-- The operation `PH` selects (R160), its operands read as R171, R172, R177 say. -/
def select (s : State) : Selection :=
  match s.ph with
  | .idle => .rest
  | .sync => .op .sync
  | .getverCmd => .op .getverCmd
  | .getverResp => .op .getverResp
  | .getidCmd => .op .getidCmd
  | .getidResp => .op .getidResp
  | .fetch => .op .fetch
  | .wrCmd => .op .wrmemCmd
  | .wrAddr => .op (.wrmemAddr (heldAddr s))
  | .wrData => .op (.wrmemData (heldBytes s))
  | .goCmd => .op .goCmd
  | .goAddr => .op (.goAddr (entryOperand s))
  | .done => .rest
  | .fail => .rest

/-- A session standing in phase `p`, no input pending and no operation called by itself. -/
def atPhase (p : Phase) (s : State) : State := { s with ph := p, held := true, ctl := [], call := none }

/-- An operation called by itself (log 16). -/
def calling (i : Instr) (s : State) : State := { s with ctl := [], call := some i }

/-- The record registers holding data bytes `d`, the address as it was. -/
def holdData (d : List Byte) (s : State) : State :=
  { s with
    recValid := true
    recLen := d.length
    lenField := BitVec.ofNat 8 (d.length + Config.lenOverhead)
    recData := overlay d s.recData }

/-- The state whose next step runs `i`: the phase that selects it with its operand registers, or, for an operation no phase
selects, a call of it (log 17). -/
def placeInstr (i : Instr) (s : State) : State :=
  match i with
  | .sync => atPhase .sync s
  | .getverCmd => atPhase .getverCmd s
  | .getverResp => atPhase .getverResp s
  | .getidCmd => atPhase .getidCmd s
  | .getidResp => atPhase .getidResp s
  | .fetch => atPhase .fetch s
  | .wrmemCmd => atPhase .wrCmd s
  | .wrmemAddr a => { atPhase .wrAddr s with recValid := true, recAddr := a }
  | .wrmemData d => atPhase .wrData (holdData d s)
  | .goCmd => atPhase .goCmd s
  | .goAddr e => { atPhase .goAddr s with entryValid := true, entryAddr := e }
  | .rdresp | .xchg _ _ | .ack | .nack _ => calling i s
  | .blank | .skipTag | .skipHdr | .skipLen | .skipData | .record _ _ => calling i s
  | .start _ | .decode | .finish | .fatal _ _ => calling i s

/-- The same for a table word; a word the decoder refuses changes nothing. -/
def placeWord (nbits w : Nat) (s : State) : State :=
  match decodeTableWord nbits w with
  | some i => placeInstr i s
  | none => s

end Sys2Proof.Machine
end

