-- ==== Sys2Proof/Machine/Step.lean ====
section
/-! DEFINITION. One step: the control inputs at the boundary, then one operation (log 2, log 15). -/

namespace Sys2Proof.Machine

/-- One operation: the one called by itself if there is one, else the one the sequencer selects. -/
def runSelected (s : State) : Host.Outcome State Fault Refusal :=
  match s.call with
  | some i => exec i { s with call := none }
  | none =>
    match select s with
    | .op i => exec i s
    | .rest => .next s

/-- `RESET` is admitted in `IDLE`, `DONE`, `FAIL` and refused in a session (70_reset_and_hazards.md R221, R222). -/
def runReset (s : State) : Host.Outcome State Fault Refusal :=
  if inSession s.ph then .refused .resetInSession else .next (resetRegs s)

/-- One step. -/
def step (s : State) : Host.Outcome State Fault Refusal :=
  match s.ctl with
  | .reset :: cs => runReset { s with ctl := cs }
  | .start image :: cs => exec (.start image.isSome) (openImage image { s with ctl := cs })
  | .quiet :: cs => runSelected { s with ctl := cs }
  | [] => runSelected s

/-- `s` with the operation of a table word placed where the next step selects it. -/
def State.withFetchWord (s : State) (nbits w : Nat) : State := placeWord nbits w s

end Sys2Proof.Machine
end

