-- ==== Sys2Proof/WellFormed.lean ====
section
/-! DEFINITION. When an operation's operands are ones the spec gives it. -/

namespace Sys2Proof

/-- The pairs (step, class) of the abort path: the 27 of 60_exceptions.md R191 and no other. -/
def fatalPair : Phase → FailClass → Bool
  | .sync, .io | .sync, .syncExhausted => true
  | .getverCmd, .nack | .getverCmd, .timeout | .getverCmd, .io => true
  | .getidCmd, .nack | .getidCmd, .timeout | .getidCmd, .io => true
  | .wrCmd, .nack | .wrCmd, .timeout | .wrCmd, .io => true
  | .wrAddr, .nack | .wrAddr, .timeout | .wrAddr, .io => true
  | .wrData, .nack | .wrData, .timeout | .wrData, .io => true
  | .goCmd, .nack | .goCmd, .timeout | .goCmd, .io => true
  | .goAddr, .nack | .goAddr, .timeout | .goAddr, .io => true
  | .getverResp, .timeout | .getverResp, .io => true
  | .getidResp, .timeout | .getidResp, .io => true
  | _, _ => false

/-- A record holds at most `MAX_DATA` bytes (10_state.md R29); an exchange's payload has 1 to 65 bytes (41_exchange.md
R121, R130); a `NACK` is not the acknowledge byte (R126); a fatal condition is one of R191. -/
def Instr.wf : Instr → Bool
  | .wrmemData d => d.length ≤ Config.maxData
  | .xchg p _ => 1 ≤ p.length && p.length ≤ Config.maxData + 1
  | .nack b => b != Config.ackByte
  | .record _ d => d.length ≤ Config.maxData
  | .fatal step cls => fatalPair step cls
  | .sync | .getverCmd | .getverResp | .getidCmd | .getidResp | .rdresp | .wrmemCmd | .wrmemAddr _ => true
  | .goCmd | .goAddr _ | .ack | .blank | .skipTag | .skipHdr | .skipLen | .skipData => true
  | .start _ | .fetch | .decode | .finish => true

end Sys2Proof
end

