-- ==== Sys2Proof/Safety.lean ====
section
/-! DEFINITION. The terms claims use: what a state of a run looks like (the invariant), the transitions of `PH`, what stands
on the wire, and the result states of the rules written out field by field. -/

namespace Sys2Proof.Safety

open Sys2Proof.Machine

/-! ### Result states, written out -/

/-- The abort path's result (60_exceptions.md R200), field by field. -/
def aborted (step : Phase) (cls : FailClass) (kind : ErrKind) (s : State) : State :=
  { s with
    failStep := some step
    failClass := cls
    errKind := kind
    trace := s.trace ++ [.diagFatal step cls, .release]
    held := false
    exitStatus := .protocolFailure
    ph := .fail }

/-- `FINISH`'s result (43_orchestrator.md R178), field by field. -/
def finished (s : State) : State :=
  { s with
    trace := s.trace ++ [.report .success, .release]
    held := false
    exitStatus := .success
    ph := .done }

/-- Whether a `TxWrite` answered `ok`. -/
def tookAll : TxAnswer → Bool
  | .ok => true
  | .error _ => false

/-- An exchange whose payload write answered `ok`, whose checksum write answered `a` and whose reply read answered `reply`
(41_exchange.md R121), field by field. -/
def exchanged (payload : List Byte) (ms : Nat) (a : TxAnswer) (txs : List TxAnswer) (reply : RxAnswer)
    (rxs : List RxEvent) (o : ExchangeOutcome) (s : State) : State :=
  { s with
    cks := cks payload
    outcomeValid := true
    outcome := o
    tx := s.tx ++ payload ++ (if tookAll a then [cks payload] else [])
    txIn := txs
    rxIn := rxs
    trace := s.trace ++ [.txWrite payload true, .txWrite [cks payload] (tookAll a), .rxRead 1 ms reply] }

/-- An exchange whose payload write answered `error` with `k` bytes taken (41_exchange.md R123). -/
def payloadFailed (payload : List Byte) (k : Nat) (txs : List TxAnswer) (s : State) : State :=
  { s with
    outcomeValid := true
    outcome := .ioFailure
    tx := s.tx ++ payload.take (k % payload.length)
    txIn := txs
    trace := s.trace ++ [.txWrite payload false] }

/-- What an operation that is one exchange does when it is acknowledged: `done` is what follows the exchange. -/
def Acknowledged (i : Instr) (payload : List Byte) (ms : Nat) (done : State → State) : Prop :=
  ∀ (s : State) (txs : List TxAnswer) (rxs : List RxEvent) (a : TxAnswer),
    s.txIn = .ok :: a :: txs → s.rxIn = .byte 0x79 :: rxs →
      exec i s = .next (done (exchanged payload ms a txs (.ok [0x79]) rxs .acknowledged s))

/-- `Fatal(step, class)` was raised: the phase is `FAIL`, and step and class are recorded. -/
def Raised (step : Phase) (cls : FailClass) (t : State) : Prop :=
  t.ph = .fail ∧ t.failStep = some step ∧ t.failClass = cls

/-- The failures of an operation that is one exchange, by the reply: `Fatal(PH, NACK | TIMEOUT | IO)`. -/
def FailsByReply (i : Instr) : Prop :=
  ∀ (s : State) (txs : List TxAnswer) (rxs : List RxEvent) (a : TxAnswer), s.txIn = .ok :: a :: txs →
    (∀ b : Byte, b ≠ 0x79 → s.rxIn = .byte b :: rxs → ∃ t, exec i s = .next t ∧ Raised s.ph .nack t) ∧
    (s.rxIn = .timedOut :: rxs → ∃ t, exec i s = .next t ∧ Raised s.ph .timeout t) ∧
    (s.rxIn = .error :: rxs → ∃ t, exec i s = .next t ∧ Raised s.ph .io t)

/-- The five operations that are one exchange and a move: payload and the phase after (41_exchange.md R128). -/
def plainExchange : Instr → Option (List Byte × Phase)
  | .getverCmd => some ([0x01], .getverResp)
  | .getidCmd => some ([0x02], .getidResp)
  | .wrmemCmd => some ([0x31], .wrAddr)
  | .wrmemAddr a => some ([a.extractLsb' 24 8, a.extractLsb' 16 8, a.extractLsb' 8 8, a.extractLsb' 0 8], .wrData)
  | .goCmd => some ([0x21], .goAddr)
  | .sync | .getverResp | .getidResp | .rdresp | .wrmemData _ | .goAddr _ | .xchg _ _ | .ack | .nack _ => none
  | .blank | .skipTag | .skipHdr | .skipLen | .skipData | .record _ _ | .start _ | .fetch | .decode | .finish => none
  | .fatal _ _ => none

/-- The seven call sites of the exchange (41_exchange.md R128). -/
def exchangePayload : Instr → Option (List Byte)
  | .getverCmd => some [0x01]
  | .getidCmd => some [0x02]
  | .wrmemCmd => some [0x31]
  | .wrmemAddr a => some (be32 a)
  | .wrmemData d => some (dataPayload d)
  | .goCmd => some [0x21]
  | .goAddr e => some (be32 e)
  | .sync | .getverResp | .getidResp | .rdresp | .xchg _ _ | .ack | .nack _ | .blank | .skipTag | .skipHdr => none
  | .skipLen | .skipData | .record _ _ | .start _ | .fetch | .decode | .finish | .fatal _ _ => none

/-- Their reply timeouts in ms (41_exchange.md R128): the data exchange's is the longer one. -/
def exchangeMs : Instr → Nat
  | .wrmemData _ => 500
  | .getverCmd | .getidCmd | .wrmemCmd | .wrmemAddr _ | .goCmd | .goAddr _ => 100
  | .sync | .getverResp | .getidResp | .rdresp | .xchg _ _ | .ack | .nack _ | .blank | .skipTag | .skipHdr => 0
  | .skipLen | .skipData | .record _ _ | .start _ | .fetch | .decode | .finish | .fatal _ _ => 0

/-- A response read that failed: `Fatal(PH, TIMEOUT | IO)`, never `NACK`, and none of the registers it would write is written. -/
def ReadFailed (s t : State) : Prop :=
  t.ph = .fail ∧ t.failStep = some s.ph ∧ t.exitStatus = .protocolFailure ∧ t.held = false ∧
  (t.failClass = .timeout ∧ t.errKind = .protocol ∨ t.failClass = .io ∧ t.errKind = .link) ∧
  t.resp = s.resp ∧ t.ver = s.ver ∧ t.verValid = s.verValid ∧ t.pid = s.pid ∧ t.pidValid = s.pidValid

/-- The status group and `HELD` are as they were. -/
def StatusKept (s t : State) : Prop :=
  t.exitStatus = s.exitStatus ∧ t.failStep = s.failStep ∧ t.failClass = s.failClass ∧ t.errKind = s.errKind ∧ t.held = s.held

/-! ### The synchronizer -/

/-- What a spent attempt of `SYNC` read: a byte other than `0x79`, a timeout, or, unless read errors are fatal, an error
(40_synchronizer.md R113; 00_scope.md R8). -/
def spent (errorFatal : Bool) : RxEvent → Bool
  | .byte b => b != 0x79
  | .timedOut => true
  | .error => !errorFatal

/-- The answer a one-byte read gives for an event. -/
def answerOf : RxEvent → RxAnswer
  | .byte b => .ok [b]
  | .timedOut => .timedOut
  | .error => .error

/-- The requests of an attempt of `SYNC`, by what it read (R111). -/
def attempt (ms : Nat) (e : RxEvent) : List Event := [.txWrite [0x7F] true, .rxRead 1 ms (answerOf e)]

/-- The state after a run of attempts that all wrote `ok`, having read `es`. -/
def attempted (es : List RxEvent) (txs : List TxAnswer) (rxs : List RxEvent) (s : State) : State :=
  { s with
    att := es.length
    tx := s.tx ++ List.replicate es.length 0x7F
    txIn := txs
    rxIn := rxs
    trace := s.trace ++ es.flatMap (attempt s.cfg.tSync) }

/-! ### Image lines, by character position (30_encoding.md R85, R93) -/

/-- Character `i` is there and is a hex digit (R86). -/
def digitAt (lower : Bool) (cs : Line) (i : Nat) : Prop := i < cs.length ∧ hexval lower (cs.getD i 0) ≠ none

/-- The byte that characters `i` and `i + 1` write (R87). -/
def byteAt (lower : Bool) (cs : Line) (i : Nat) : Option Byte := hexbyte lower (cs.getD i 0) (cs.getD (i + 1) 0)

/-- The line begins with the two tag characters. -/
def tagged (cs : Line) : Prop := 2 ≤ cs.length ∧ cs.getD 0 0 = 0x53 ∧ cs.getD 1 0 = 0x33

/-- The line has its tag and ten hex digits after it. -/
def headed (lower : Bool) (cs : Line) : Prop := tagged cs ∧ ∀ i, 2 ≤ i → i < 12 → digitAt lower cs i

/-- The line's length field has the value `n + 5` for an `n` of 0 to 64. -/
def lengthOk (lower : Bool) (cs : Line) (n : Nat) : Prop := n ≤ 64 ∧ byteAt lower cs 2 = some (BitVec.ofNat 8 (n + 5))

/-! ### The session -/

/-- Every transition of `PH` by one operation (43_orchestrator.md R180); the resting phases stay. -/
def transition : Phase → Phase → Bool
  | .idle, .idle => true
  | .sync, .getverCmd | .sync, .fail => true
  | .getverCmd, .getverResp | .getverCmd, .fail => true
  | .getverResp, .getidCmd | .getverResp, .fail => true
  | .getidCmd, .getidResp | .getidCmd, .fail => true
  | .getidResp, .done | .getidResp, .fetch | .getidResp, .fail => true
  | .fetch, .fetch | .fetch, .wrCmd | .fetch, .goCmd => true
  | .wrCmd, .wrAddr | .wrCmd, .fail => true
  | .wrAddr, .wrData | .wrAddr, .fail => true
  | .wrData, .fetch | .wrData, .fail => true
  | .goCmd, .goAddr | .goCmd, .fail => true
  | .goAddr, .done | .goAddr, .fail => true
  | .done, .done => true
  | .fail, .fail => true
  | _, _ => false

/-- The phases after the version was read, and after the product ID was read. -/
def afterVersion : Phase → Bool
  | .getidCmd | .getidResp | .fetch | .wrCmd | .wrAddr | .wrData | .goCmd | .goAddr | .done => true
  | .idle | .sync | .getverCmd | .getverResp | .fail => false

/-- The phases of the record loop and the jump. -/
def inLoad : Phase → Bool
  | .fetch | .wrCmd | .wrAddr | .wrData | .goCmd | .goAddr => true
  | .idle | .sync | .getverCmd | .getverResp | .getidCmd | .getidResp | .done | .fail => false

/-- The phases before the record loop. -/
def beforeLoad : Phase → Bool
  | .idle | .sync | .getverCmd | .getverResp | .getidCmd | .getidResp => true
  | .fetch | .wrCmd | .wrAddr | .wrData | .goCmd | .goAddr | .done | .fail => false

/-- What holds of every state of a run. -/
structure Inv (s : State) : Prop where
  /-- no operation is called by itself (log 16) -/
  noCall : s.call = none
  /-- `ATT` is 0 to `MAX_ATTEMPTS` (10_state.md R23) -/
  attempts : s.att ≤ s.cfg.maxAttempts
  /-- a valid record has 0 to 64 bytes and its length field is 5 more (R29) -/
  record : s.recValid = true → s.recLen ≤ 64 ∧ s.lenField.toNat = s.recLen + 5
  /-- `REC_LEN` has 7 bits (R20) -/
  recLenWidth : s.recLen < 128
  /-- a record is in hand while it is written -/
  recordHeld : inRecord s.ph = true → s.recValid = true
  /-- lines are fetched only with an image (20_memory.md R59) -/
  imageHeld : inLoad s.ph = true → s.imgPresent = true
  /-- identification precedes every write (20_memory.md R73) -/
  version : afterVersion s.ph = true → s.verValid = true
  /-- the same for the product ID -/
  productId : inLoad s.ph = true ∨ s.ph = .done → s.pidValid = true
  /-- the line buffer holds one line of at most `LINE_MAX` characters (R33) -/
  lineLen : s.lbLen = s.lb.length
  lineMax : s.lb.length ≤ s.cfg.lineMax
  /-- the engine owns the transport exactly in a session (R35) -/
  held : s.held = inSession s.ph
  /-- the status group before a failure (R34, R43) -/
  noFailure : s.ph ≠ .fail → s.failStep = none ∧ s.failClass = .none ∧ s.errKind = .none
  /-- and after one: a pair of 60_exceptions.md R191, its kind by R192 -/
  failure : s.ph = .fail → ∃ p, s.failStep = some p ∧ fatalPair p s.failClass = true ∧ s.errKind = kindOf s.failClass
  /-- `EXIT_STATUS` is 0 in `DONE` and 2 in `FAIL` -/
  exitDone : s.ph = .done → s.exitStatus = .success
  exitFail : s.ph = .fail → s.exitStatus = .protocolFailure
  /-- and never 1 (60_exceptions.md R195) -/
  exitNeverOne : s.exitStatus ≠ .usageOrSetup
  /-- the entry address is the first acknowledged record's (43_orchestrator.md R174) -/
  entryNone : s.entryValid = false → s.wlog = []
  entryFirst : s.entryValid = true → ∃ d rest, s.wlog = (s.entryAddr, d) :: rest
  /-- nothing is written before the record loop, nor in a session without an image (43_orchestrator.md R167) -/
  nothingWritten : beforeLoad s.ph = true ∨ s.imgPresent = false → s.wlog = []
  /-- the transport is released once, at the end (60_exceptions.md R203) -/
  released : s.trace.count .release = if terminal s.ph then 1 else 0
  releasedLast : terminal s.ph = true → s.trace.getLast? = some .release
  /-- the record of a failure in `WR_*` is still held (60_exceptions.md R193) -/
  failedRecord : ∀ p, s.failStep = some p → inRecord p = true → s.recValid = true

/-! ### The wire -/

/-- Every `TxWrite` of a trace answered `ok`. -/
def writesOk (tr : List Event) : Prop := ∀ bs, Event.txWrite bs false ∉ tr

/-- The three frames of one record's write sequence (30_encoding.md R91). -/
def recordFrames (w : Word × List Byte) : List Byte :=
  [0x31, 0xCE] ++ frame (be32 w.1) ++ frame (dataPayload w.2)

/-- The sync bytes, and the two identification frames after them. -/
def syncBytes (s : State) : List Byte := List.replicate s.att 0x7F
def identBytes (s : State) : List Byte := syncBytes s ++ [0x01, 0xFE, 0x02, 0xFD]

/-- Everything up to the frames of the last record whose write was acknowledged. -/
def loadBytes (s : State) : List Byte := identBytes s ++ s.wlog.flatMap recordFrames

/-- What stands on `TX` when every write answered `ok`, by the phase (30_encoding.md R91; 95_test_vectors.md section 6 for
`FAIL`). -/
def wire (s : State) : List Byte :=
  match s.ph with
  | .idle | .sync => []
  | .getverCmd => syncBytes s
  | .getverResp | .getidCmd => syncBytes s ++ [0x01, 0xFE]
  | .getidResp => identBytes s
  | .fetch | .wrCmd | .goCmd => loadBytes s
  | .wrAddr => loadBytes s ++ [0x31, 0xCE]
  | .wrData => loadBytes s ++ [0x31, 0xCE] ++ frame (be32 s.recAddr)
  | .goAddr => loadBytes s ++ [0x21, 0xDE]
  | .done => if s.imgPresent then loadBytes s ++ [0x21, 0xDE] ++ frame (be32 (entryOperand s)) else identBytes s
  | .fail =>
    match s.failStep with
    | some .sync => syncBytes s
    | some .getverCmd | some .getverResp => syncBytes s ++ [0x01, 0xFE]
    | some .getidCmd | some .getidResp => identBytes s
    | some .wrCmd => loadBytes s ++ [0x31, 0xCE]
    | some .wrAddr => loadBytes s ++ [0x31, 0xCE] ++ frame (be32 s.recAddr)
    | some .wrData => loadBytes s ++ recordFrames (s.recAddr, recordBytes s)
    | some .goCmd => loadBytes s ++ [0x21, 0xDE]
    | some .goAddr => loadBytes s ++ [0x21, 0xDE] ++ frame (be32 (entryOperand s))
    | _ => s.tx

/-- Without a failed write, `TX` carries exactly the frames of the sequence. -/
def WireInv (s : State) : Prop := writesOk s.trace → s.tx = wire s

/-! ### Counting requests -/

/-- The request is a `TxWrite`. -/
def isTxWrite : Event → Bool
  | .txWrite _ _ => true
  | .rxRead _ _ _ | .imgNext _ | .diagSkip _ _ | .diagFatal _ _ | .report _ | .release => false

/-- The request is an `RxRead`. -/
def isRxRead : Event → Bool
  | .rxRead _ _ _ => true
  | .txWrite _ _ | .imgNext _ | .diagSkip _ _ | .diagFatal _ _ | .report _ | .release => false

/-- The sync attempts, exchanges and response reads a session has made when it stands in its phase with `r` records written
(43_orchestrator.md R179). -/
def exchangesMade (img : Bool) (r : Nat) : Phase → Nat
  | .idle | .sync | .getverCmd => 0
  | .getverResp | .getidCmd => 1
  | .getidResp => 2
  | .fetch | .wrCmd | .goCmd => 2 + 3 * r
  | .wrAddr => 2 + 3 * r + 1
  | .wrData => 2 + 3 * r + 2
  | .goAddr => 2 + 3 * r + 1
  | .done => if img then 2 + 3 * r + 2 else 2
  | .fail => 0

/-- The response blocks read. -/
def blocksRead : Phase → Nat
  | .idle | .sync | .getverCmd | .getverResp | .fail => 0
  | .getidCmd | .getidResp => 1
  | .fetch | .wrCmd | .wrAddr | .wrData | .goCmd | .goAddr | .done => 2

/-- The sync attempts that count: none before the synchronizer has run. -/
def attemptsMade (s : State) : Nat :=
  match s.ph with
  | .idle | .sync => 0
  | .getverCmd | .getverResp | .getidCmd | .getidResp | .fetch | .wrCmd | .wrAddr | .wrData | .goCmd | .goAddr => s.att
  | .done | .fail => s.att

/-- Until a failure: two writes and one read an exchange, one of each an attempt, one read a block. -/
def CountInv (s : State) : Prop := s.ph ≠ .fail →
  s.trace.countP isTxWrite = attemptsMade s + 2 * exchangesMade s.imgPresent s.wlog.length s.ph ∧
  s.trace.countP isRxRead = attemptsMade s + exchangesMade s.imgPresent s.wlog.length s.ph + blocksRead s.ph

/-! ### Termination -/

/-- How many operations a session can still take (43_orchestrator.md R180: each cycle consumes an attempt or a line). -/
def budget (s : State) : Nat :=
  match s.ph with
  | .idle | .done | .fail => 0
  | .goAddr => 1
  | .goCmd => 2
  | .fetch => 4 * s.img.length + 3
  | .wrData => 4 * s.img.length + 4
  | .wrAddr => 4 * s.img.length + 5
  | .wrCmd => 4 * s.img.length + 6
  | .getidResp => 4 * s.img.length + 4
  | .getidCmd => 4 * s.img.length + 5
  | .getverResp => 4 * s.img.length + 6
  | .getverCmd => 4 * s.img.length + 7
  | .sync => 4 * s.img.length + 8

end Sys2Proof.Safety
end

