-- ==== Sys2Proof/Certificates/Slice0/Obligations.lean ====
section
/-! DEFINITION. The statements for the provers. Each docstring names the rule or section of spec/ it formalises. -/

open Sys2Proof Sys2Proof.Machine Sys2Proof.Safety

/-! ### Encodings -/

/-- Words written out from 30_encoding.md R81 to R85, R88, R89 and 95_test_vectors.md sections 3 and 4. -/
def Obligations.SampleWordsDecode : Prop :=
  decode true .unit [0x7F] = .ok .sync ∧
  decode true .unit [0x01, 0xFE] = .ok .getverCmd ∧
  decode true .unit [0x02, 0xFD] = .ok .getidCmd ∧
  decode true .unit [0x31, 0xCE] = .ok .wrmemCmd ∧
  decode true .unit [0x21, 0xDE] = .ok .goCmd ∧
  decode true .unit [0x01, 0x01] = .rejected .badChecksum ∧
  decode true .unit [0x11, 0xEE] = .rejected .unknownUnit ∧
  decode true .wrAddr [0x12, 0x34, 0x56, 0x78, 0x08] = .ok (.wrmemAddr 0x12345678) ∧
  decode true .wrData [0x03, 0xDE, 0xAD, 0xBE, 0xEF, 0x21] = .ok (.wrmemData [0xDE, 0xAD, 0xBE, 0xEF]) ∧
  decode true .wrData [0xFF, 0x00] = .ok (.wrmemData []) ∧
  decode true .goAddr [0x20, 0x00, 0x00, 0x00, 0x20] = .ok (.goAddr 0x20000000) ∧
  decode true (.exchange .ctrl) [0x31, 0xCE] = .ok (.xchg [0x31] .ctrl) ∧
  decode true .reply [0x79] = .ok .ack ∧
  decode true .reply [0x1F] = .ok (.nack 0x1F) ∧
  decode true .verBlock [0x31, 0x00, 0x00, 0x79] = .ok .getverResp ∧
  decode true .line [] = .ok .blank ∧
  decode true .line [0x53, 0x31, 0x31, 0x33] = .ok .skipTag ∧
  decode true .line [0x53, 0x33] = .ok .skipHdr ∧
  decode true .line [0x53, 0x33, 0x30, 0x35, 0x30, 0x30, 0x30, 0x30, 0x32, 0x30, 0x30, 0x30] = .ok (.record 0x2000 [])

/-- Every well-formed operation that has words decodes from the words the encoder gives it, at every operand value, whatever
`HEX_LOWER` is (30_encoding.md sections 1 to 3). For the rows that stand for many words (`SKIP.*`, response blocks) the
encoder's word is the model's choice (log 25). -/
def Obligations.DecodeOfEncodeIsTheOperation : Prop :=
  ∀ (i : Instr) (lower : Bool) (p : Position) (bs : List Byte),
    i.wf = true → encode i = some (p, bs) → decode lower p bs = .ok i

/-- Where a word has one meaning (units, frames, replies), a word the decoder takes is the encoder's word of a well-formed
operation: no bit of it is dropped (30_encoding.md R81 to R84, R88, R91). -/
def Obligations.DecodedFramesAreEncodings : Prop :=
  ∀ (lower : Bool) (p : Position) (bs : List Byte) (i : Instr),
    (p = .unit ∨ p = .wrAddr ∨ p = .wrData ∨ p = .goAddr ∨ p = .reply ∨ ∃ t, p = .exchange t) →
    decode lower p bs = .ok i → i.wf = true ∧ encode i = some (p, bs)

/-- The line forms by character position: the six rows of 30_encoding.md R93, in both directions. The order of the tests is
the spec's decision D17. -/
def Obligations.LineFormsByPosition : Prop :=
  ∀ (lower : Bool) (cs : Line),
    (decodeLine lower cs = .nothing ↔ cs.length = 0) ∧
    (decodeLine lower cs = .skip .tag ↔ cs.length ≠ 0 ∧ ¬ tagged cs) ∧
    (decodeLine lower cs = .skip .hdr ↔ tagged cs ∧ ¬ headed lower cs) ∧
    (decodeLine lower cs = .skip .len ↔ headed lower cs ∧ ¬ ∃ n, lengthOk lower cs n) ∧
    (decodeLine lower cs = .skip .data ↔
      headed lower cs ∧ ∃ n, lengthOk lower cs n ∧ ∃ i, 12 ≤ i ∧ i < 12 + 2 * n ∧ ¬ digitAt lower cs i) ∧
    ((∃ a d, decodeLine lower cs = .record a d) ↔
      headed lower cs ∧ ∃ n, lengthOk lower cs n ∧ ∀ i, 12 ≤ i → i < 12 + 2 * n → digitAt lower cs i)

/-- The header test and the data test in the rules' words: fewer than 12 characters or a character at positions 2 to 11 that is
no hex digit; fewer than `12 + 2 (LEN_FIELD - 5)` characters or a character at positions 12 on that is none
(42_record_decoder.md R144, R148). -/
def Obligations.HeaderAndDataTests : Prop :=
  ∀ (lower : Bool) (cs : Line),
    (tagged cs → (decodeLine lower cs = .skip .hdr ↔
      cs.length < 12 ∨ ∃ i, 2 ≤ i ∧ i ≤ 11 ∧ hexval lower (cs.getD i 0) = none)) ∧
    (∀ lf : Byte, headed lower cs → byteAt lower cs 2 = some lf → 5 ≤ lf.toNat → lf.toNat ≤ 69 →
      (decodeLine lower cs = .skip .data ↔
        cs.length < 12 + 2 * (lf.toNat - 5) ∨
        ∃ i, 12 ≤ i ∧ i ≤ 11 + 2 * (lf.toNat - 5) ∧ hexval lower (cs.getD i 0) = none))

/-- How a record's operands are assembled (30_encoding.md R90 (a) to (d), R85): length field, big-endian address, data in
order. -/
def Obligations.RecordOperandsByPosition : Prop :=
  ∀ (lower : Bool) (cs : Line) (a : Word) (d : List Byte), decodeLine lower cs = .record a d →
    d.length ≤ 64 ∧ 12 + 2 * d.length ≤ cs.length ∧
    byteAt lower cs 2 = some (BitVec.ofNat 8 (d.length + 5)) ∧
    byteAt lower cs 4 = some (a.extractLsb' 24 8) ∧
    byteAt lower cs 6 = some (a.extractLsb' 16 8) ∧
    byteAt lower cs 8 = some (a.extractLsb' 8 8) ∧
    byteAt lower cs 10 = some (a.extractLsb' 0 8) ∧
    ∀ i, i < d.length → byteAt lower cs (12 + 2 * i) = d[i]?

/-- Nothing past the data field is read: checksum pair or not, garbage or not (42_record_decoder.md section 3, 30_encoding.md
section 5; the spec's decision D18). -/
def Obligations.RestOfLineIsNeverRead : Prop :=
  ∀ (lower : Bool) (cs rest : Line) (a : Word) (d : List Byte), decodeLine lower cs = .record a d →
    decodeLine lower (cs.take (12 + 2 * d.length) ++ rest) = .record a d

/-- The length test (42_record_decoder.md R146): on integers, 0x00 to 0x04 and 0x46 to 0xFF skip, the others do not, and the
record then has exactly `LEN_FIELD - 5` bytes. -/
def Obligations.LengthFieldBounds : Prop :=
  ∀ (lower : Bool) (cs : Line) (lf : Byte), headed lower cs → byteAt lower cs 2 = some lf →
    ((lf.toNat ≤ 0x04 ∨ 0x46 ≤ lf.toNat) → decodeLine lower cs = .skip .len) ∧
    ((0x05 ≤ lf.toNat ∧ lf.toNat ≤ 0x45) → decodeLine lower cs ≠ .skip .len) ∧
    (∀ a d, decodeLine lower cs = .record a d → (d.length : Int) = (lf.toNat : Int) - 5)

/-- Hex digits (30_encoding.md section 2; lower case is the spec's decision D14, under the parameter `HEX_LOWER`). -/
def Obligations.HexDigitValues : Prop :=
  ∀ (lower : Bool) (c : Byte),
    (0x30 ≤ c.toNat ∧ c.toNat ≤ 0x39 → (hexval lower c).map BitVec.toNat = some (c.toNat - 0x30)) ∧
    (0x41 ≤ c.toNat ∧ c.toNat ≤ 0x46 → (hexval lower c).map BitVec.toNat = some (c.toNat - 0x41 + 10)) ∧
    (0x61 ≤ c.toNat ∧ c.toNat ≤ 0x66 → (hexval true c).map BitVec.toNat = some (c.toNat - 0x61 + 10) ∧
      hexval false c = none) ∧
    (hexval lower c ≠ none →
      0x30 ≤ c.toNat ∧ c.toNat ≤ 0x39 ∨ 0x41 ≤ c.toNat ∧ c.toNat ≤ 0x46 ∨
      lower = true ∧ 0x61 ≤ c.toNat ∧ c.toNat ≤ 0x66)

/-! ### The checksum -/

/-- The arithmetic laws of the checksum, 41_exchange.md R129 (a) to (f), with the two laws of R122 they are about. -/
def Obligations.ChecksumLaws : Prop :=
  (∀ b : Byte, cks [b] = 0xFF - b ∧ (0xFF - b).toNat = 255 - b.toNat ∧ 0xFF - b = ~~~b ∧ 0xFF - b = b ^^^ 0xFF ∧
    b + cks [b] = 0xFF ∧ (b + cks [b]).toNat = b.toNat + (cks [b]).toNat) ∧
  (∀ p : List Byte, p.length ≠ 1 → cks p = xorfold p) ∧
  (xorfold [] = 0x00 ∧ (∀ b : Byte, xorfold [b] = b) ∧ (∀ p q : List Byte, xorfold (p ++ q) = xorfold p ^^^ xorfold q) ∧
    (∀ p q : List Byte, p.Perm q → xorfold p = xorfold q)) ∧
  (∀ p : List Byte, 2 ≤ p.length → xorfold (p ++ [cks p]) = 0x00) ∧
  (∀ b : Byte, xorfold [b, cks [b]] = 0xFF) ∧
  (∀ b : Byte, 0xFF - b ≠ xorfold [b]) ∧
  (∀ a : Word, cks (be32 a) = a.extractLsb' 24 8 ^^^ a.extractLsb' 16 8 ^^^ a.extractLsb' 8 8 ^^^ a.extractLsb' 0 8) ∧
  cks (be32 0x00000000) = 0x00 ∧ cks (be32 0xFFFFFFFF) = 0x00

/-! ### The link -/

/-- Success at the first `0x79`: after any number of spent attempts below `MAX_ATTEMPTS`, `SYNC` ends at once, `ATT` keeps the
number of the attempt, one write and one read an attempt, nothing else read or written (40_synchronizer.md R115). -/
def Obligations.SyncEndsAtTheFirstAcknowledge : Prop :=
  ∀ (s : State) (es : List RxEvent) (txs : List TxAnswer) (rxs : List RxEvent),
    s.cfg.tSync ≠ 0 → es.length < s.cfg.maxAttempts → es.all (spent s.cfg.syncRxErrorFatal) = true →
    s.txIn = List.replicate (es.length + 1) .ok ++ txs → s.rxIn = es ++ .byte 0x79 :: rxs →
    exec .sync s = .next { attempted (es ++ [.byte 0x79]) txs rxs s with ph := .getverCmd }

/-- When all attempts are spent, `MAX_ATTEMPTS = 0` among them: the link never locked, and no identification exchange is attempted
(40_synchronizer.md R114). -/
def Obligations.SyncAttemptsExhausted : Prop :=
  ∀ (s : State) (es : List RxEvent) (txs : List TxAnswer) (rxs : List RxEvent),
    s.cfg.tSync ≠ 0 → es.length = s.cfg.maxAttempts → es.all (spent s.cfg.syncRxErrorFatal) = true →
    s.txIn = List.replicate es.length .ok ++ txs → s.rxIn = es ++ rxs →
    ∃ t, exec .sync s = .next t ∧ Raised .sync .syncExhausted t ∧ t.errKind = .link ∧ t.exitStatus = .protocolFailure ∧
      t.att = s.cfg.maxAttempts ∧ t.tx = s.tx ++ List.replicate es.length 0x7F ∧ t.txIn = txs ∧ t.rxIn = rxs ∧
      t.trace.countP isTxWrite = s.trace.countP isTxWrite + es.length ∧
      t.trace.countP isRxRead = s.trace.countP isRxRead + es.length

/-- A write failure on any attempt: no read, no further attempt (40_synchronizer.md R112). -/
def Obligations.SyncWriteFailureAborts : Prop :=
  ∀ (s : State) (es : List RxEvent) (k : Nat) (txs : List TxAnswer) (rxs : List RxEvent),
    s.cfg.tSync ≠ 0 → es.length < s.cfg.maxAttempts → es.all (spent s.cfg.syncRxErrorFatal) = true →
    s.txIn = List.replicate es.length .ok ++ .error k :: txs → s.rxIn = es ++ rxs →
    ∃ t, exec .sync s = .next t ∧ Raised .sync .io t ∧ t.errKind = .link ∧ t.exitStatus = .protocolFailure ∧
      t.att = es.length + 1 ∧ t.tx = s.tx ++ List.replicate es.length 0x7F ∧ t.txIn = txs ∧ t.rxIn = rxs ∧
      t.trace.countP isTxWrite = s.trace.countP isTxWrite + es.length + 1 ∧
      t.trace.countP isRxRead = s.trace.countP isRxRead + es.length

/-- The other reading of a read error in `SYNC`, under the parameter `SYNC_RX_ERROR_FATAL` (00_scope.md section 3,
93_implementation_defined.md U9), with the abort path written out (60_exceptions.md section 4). That `ATT` then stands at the
failing attempt is the model's reading (log 29). -/
def Obligations.SyncReadErrorFatalWhenConfigured : Prop :=
  ∀ (s : State) (es : List RxEvent) (txs : List TxAnswer) (rxs : List RxEvent),
    s.cfg.tSync ≠ 0 → s.cfg.syncRxErrorFatal = true → es.length < s.cfg.maxAttempts → es.all (spent true) = true →
    s.txIn = List.replicate (es.length + 1) .ok ++ txs → s.rxIn = es ++ .error :: rxs →
    exec .sync s = .next (aborted .sync .io .link (attempted (es ++ [.error]) txs rxs s))

/-- What `SYNC` leaves alone, whatever the answers: `OUTCOME`, `CKS` and every register but `ATT`, `PH` and, on failure, the
status group and `HELD` (40_synchronizer.md sections 1 and 3). -/
def Obligations.SyncFrame : Prop :=
  ∀ s : State, ∃ t, exec .sync s = .next t ∧
    t.att ≤ s.cfg.maxAttempts ∧
    (t.ph = .getverCmd ∧ t.exitStatus = s.exitStatus ∧ t.failStep = s.failStep ∧ t.failClass = s.failClass ∧
        t.errKind = s.errKind ∧ t.held = s.held ∨
      t.ph = .fail ∧ t.exitStatus = .protocolFailure ∧ t.failStep = some .sync ∧ t.errKind = .link ∧ t.held = false ∧
        (t.failClass = .io ∨ t.failClass = .syncExhausted)) ∧
    { t with
      att := s.att, ph := s.ph, exitStatus := s.exitStatus, failStep := s.failStep, failClass := s.failClass,
      errKind := s.errKind, held := s.held, tx := s.tx, txIn := s.txIn, rxIn := s.rxIn, draws := s.draws,
      trace := s.trace } = s

/-- `XCHG` answer by answer, the payload taken: the checksum in its own write, its answer `a` not looked at, one read with the
caller's timeout, the whole byte compared (41_exchange.md R124, R125, R126). -/
def Obligations.ExchangeOutcomes : Prop :=
  ∀ (s : State) (p : List Byte) (t : ReplyTimeout) (txs : List TxAnswer) (rxs : List RxEvent) (a : TxAnswer),
    let ms := match t with | .ctrl => 100 | .data => 500
    s.txIn = .ok :: a :: txs →
    (s.rxIn = .byte 0x79 :: rxs →
      exec (.xchg p t) s = .next (exchanged p ms a txs (.ok [0x79]) rxs .acknowledged s)) ∧
    (∀ b : Byte, b ≠ 0x79 → s.rxIn = .byte b :: rxs →
      exec (.xchg p t) s = .next (exchanged p ms a txs (.ok [b]) rxs .negativeAcknowledged s)) ∧
    (s.rxIn = .timedOut :: rxs → exec (.xchg p t) s = .next (exchanged p ms a txs .timedOut rxs .timedOut s)) ∧
    (s.rxIn = .error :: rxs → exec (.xchg p t) s = .next (exchanged p ms a txs .error rxs .ioFailure s))

/-- The reply byte of a refusal is not stored: two runs that differ only in which byte refused end in the same state but for
the ghost trace, at every exchange (41_exchange.md R131). -/
def Obligations.RefusalByteIsNotStored : Prop :=
  ∀ (s t1 t2 : State) (i : Instr) (b1 b2 : Byte) (a : TxAnswer) (txs : List TxAnswer) (rxs : List RxEvent),
    (exchangePayload i ≠ none ∨ ∃ p t, i = .xchg p t) → b1 ≠ 0x79 → b2 ≠ 0x79 → s.txIn = .ok :: a :: txs →
    exec i { s with rxIn := .byte b1 :: rxs } = .next t1 → exec i { s with rxIn := .byte b2 :: rxs } = .next t2 →
    { t1 with trace := t2.trace } = t2

/-- The reply byte by itself, as `ACK` and `NACK` (41_exchange.md section 3; in `SYNC`, 40_synchronizer.md section 2). That
these rows act by the phase is the model's reading (log 19). -/
def Obligations.ReplyByteMeanings : Prop :=
  ∀ (s : State) (b : Byte),
    (s.ph = .sync → exec .ack s = .next { s with ph := .getverCmd } ∧ exec (.nack b) s = .next s) ∧
    (s.ph ≠ .sync → exec .ack s = .next { s with outcomeValid := true, outcome := .acknowledged } ∧
      exec (.nack b) s = .next { s with outcomeValid := true, outcome := .negativeAcknowledged })

/-! ### Exchanges of the orchestrator -/

/-- `GETVER.CMD`, `GETID.CMD`, `WRMEM.CMD`, `WRMEM.ADDR`, `GO.CMD`: one exchange with `T_CTRL`, then the move; the address as
it is, most significant byte first; a refusal, a timeout or an error of the reply is fatal at the current phase
(43_orchestrator.md R162, R165, R170, R171, R176). -/
def Obligations.ExchangeThenMove : Prop :=
  ∀ (i : Instr) (payload : List Byte) (p : Phase), plainExchange i = some (payload, p) →
    Acknowledged i payload 100 (fun u => { u with ph := p }) ∧ FailsByReply i

/-- `WRMEM.DATA`: length byte `(L - 1) mod 256` and the data with `T_DATA`, then the write log, the entry latch and the next
line (43_orchestrator.md section 3; the empty record's length byte is the spec's decision D10, the latch's moment D20, the
write log D26). The address is `REC_ADDR` with a valid record; without one it is a free value (10_state.md section 8,
93_implementation_defined.md U2; that the operation goes on with it is the model's reading, log 13). -/
def Obligations.DataExchange : Prop :=
  (∀ s : State, s.recValid = true → heldAddr s = s.recAddr) ∧
  ∀ d : List Byte,
    Acknowledged (.wrmemData d) (BitVec.ofInt 8 ((d.length : Int) - 1) :: d) 500 (fun u =>
      { u with
        wlog := u.wlog ++ [(heldAddr u, d)]
        entryAddr := if u.entryValid then u.entryAddr else heldAddr u
        entryValid := true
        ph := .fetch }) ∧
    FailsByReply (.wrmemData d)

/-- `GO.ADDR`: the entry address, or 0 when none was latched, then `FINISH`; a refusal, a timeout or an error of the reply is
fatal at the current phase (43_orchestrator.md R177). -/
def Obligations.GoAddressExchange : Prop :=
  (∀ e : Word,
    Acknowledged (.goAddr e) [e.extractLsb' 24 8, e.extractLsb' 16 8, e.extractLsb' 8 8, e.extractLsb' 0 8] 100 finished ∧
    FailsByReply (.goAddr e)) ∧
  (∀ s : State, s.ph = .goAddr → select s = .op (.goAddr (if s.entryValid then s.entryAddr else 0x00000000)))

/-- The failures of the seven exchanges, written out: every register of the exchange and of the abort path (43_orchestrator.md
section 1, 60_exceptions.md sections 1 and 4; that a payload write's failure ends the exchange is the spec's decision D8, the
order of diagnostic and release D31), and `XCHG` by itself when its payload is not taken. -/
def Obligations.ExchangeFailures : Prop :=
  ∀ (i : Instr) (p : List Byte) (s : State) (txs : List TxAnswer) (rxs : List RxEvent) (a : TxAnswer) (k : Nat),
    (∀ t, s.txIn = .error k :: txs → exec (.xchg p t) s = .next (payloadFailed p k txs s)) ∧
    (exchangePayload i = some p →
      (s.txIn = .error k :: txs → exec i s = .next (aborted s.ph .io .link (payloadFailed p k txs s))) ∧
      (s.txIn = .ok :: a :: txs → s.rxIn = .timedOut :: rxs →
        exec i s = .next (aborted s.ph .timeout .protocol (exchanged p (exchangeMs i) a txs .timedOut rxs .timedOut s))) ∧
      (s.txIn = .ok :: a :: txs → s.rxIn = .error :: rxs →
        exec i s = .next (aborted s.ph .io .link (exchanged p (exchangeMs i) a txs .error rxs .ioFailure s))) ∧
      (∀ b : Byte, b ≠ 0x79 → s.txIn = .ok :: a :: txs → s.rxIn = .byte b :: rxs →
        exec i s =
          .next (aborted s.ph .nack .protocol (exchanged p (exchangeMs i) a txs (.ok [b]) rxs .negativeAcknowledged s))))

/-- `CHECK` at the seven call sites, whatever the answers: an acknowledge goes on; any other outcome is fatal at the current
phase with its class, and nothing more than a part of the frame was sent (43_orchestrator.md R161). -/
def Obligations.AnyOtherOutcomeEndsTheSession : Prop :=
  ∀ (i : Instr) (p : List Byte) (s : State), exchangePayload i = some p → ∃ t, exec i s = .next t ∧
    t.outcomeValid = true ∧ (∃ out, t.tx = s.tx ++ out ∧ out <+: frame p) ∧
    (t.outcome = .acknowledged ∧ t.ph ≠ .fail ∨
      t.ph = .fail ∧ t.failStep = some s.ph ∧ t.exitStatus = .protocolFailure ∧ t.held = false ∧
        (t.outcome = .negativeAcknowledged ∧ t.failClass = .nack ∨ t.outcome = .timedOut ∧ t.failClass = .timeout ∨
          t.outcome = .ioFailure ∧ t.failClass = .io))

/-- What the exchanges leave alone, whatever the answers: every register but `CKS`, `OUTCOME`, `PH`, the status group, `HELD`,
and, for `WRMEM.DATA` alone, the entry address and the write log; `XCHG` by itself writes `CKS` and `OUTCOME` alone
(43_orchestrator.md sections 2 to 4, 41_exchange.md section 1). -/
def Obligations.ExchangeFrame : Prop :=
  (∀ (i : Instr) (p : List Byte) (s : State), exchangePayload i = some p → ∃ t, exec i s = .next t ∧
    { t with
      cks := s.cks, outcomeValid := s.outcomeValid, outcome := s.outcome, ph := s.ph, exitStatus := s.exitStatus,
      failStep := s.failStep, failClass := s.failClass, errKind := s.errKind, held := s.held,
      entryValid := s.entryValid, entryAddr := s.entryAddr, wlog := s.wlog, tx := s.tx, txIn := s.txIn, rxIn := s.rxIn,
      draws := s.draws, trace := s.trace } = s ∧
    ((∃ d, i = .wrmemData d) ∨ t.entryValid = s.entryValid ∧ t.entryAddr = s.entryAddr ∧ t.wlog = s.wlog)) ∧
  (∀ (p : List Byte) (r : ReplyTimeout) (s : State), ∃ t, exec (.xchg p r) s = .next t ∧
    { t with
      cks := s.cks, outcomeValid := s.outcomeValid, outcome := s.outcome, tx := s.tx, txIn := s.txIn, rxIn := s.rxIn,
      draws := s.draws, trace := s.trace } = s)

/-! ### Identification -/

/-- `RDRESP`: one read of four bytes with `T_RESP`, none of them checked; a wait that runs out or an error after fewer than four
loses them and is fatal at the current phase (43_orchestrator.md section 2; the classes are the spec's decision D12). -/
def Obligations.ResponseRead : Prop :=
  ∀ (s : State) (b0 b1 b2 b3 : Byte) (few : List Byte) (rxs : List RxEvent),
    (s.rxIn = .byte b0 :: .byte b1 :: .byte b2 :: .byte b3 :: rxs →
      exec .rdresp s = .next { s with
        resp := #v[b0, b1, b2, b3]
        rxIn := rxs
        trace := s.trace ++ [.rxRead 4 s.cfg.tResp (.ok [b0, b1, b2, b3])] }) ∧
    (s.cfg.tResp ≠ 0 → few.length < 4 → s.rxIn = few.map .byte ++ .timedOut :: rxs →
      exec .rdresp s = .next (aborted s.ph .timeout .protocol
        { s with rxIn := rxs, trace := s.trace ++ [.rxRead 4 s.cfg.tResp .timedOut] })) ∧
    (s.cfg.tResp ≠ 0 → few.length < 4 → s.rxIn = few.map .byte ++ .error :: rxs →
      exec .rdresp s = .next (aborted s.ph .io .link
        { s with rxIn := rxs, trace := s.trace ++ [.rxRead 4 s.cfg.tResp .error] }))

/-- `GETVER.RESP`: the first byte is the version, reported (43_orchestrator.md section 2; byte numbering is the spec's decision
D11). -/
def Obligations.VersionIsTheFirstByte : Prop :=
  ∀ (s : State) (b0 b1 b2 b3 : Byte) (rxs : List RxEvent),
    s.rxIn = .byte b0 :: .byte b1 :: .byte b2 :: .byte b3 :: rxs →
    exec .getverResp s = .next { s with
      resp := #v[b0, b1, b2, b3]
      ver := b0
      verValid := true
      ph := .getidCmd
      rxIn := rxs
      trace := s.trace ++ [.rxRead 4 s.cfg.tResp (.ok [b0, b1, b2, b3]), .report (.version b0)] }

/-- `GETID.RESP`: bytes 1 and 2, big-endian, are the product ID, reported; then the record loop, or, without an image, the end
with success (43_orchestrator.md section 2, 20_memory.md section 4; byte numbering is the spec's decision D11). -/
def Obligations.ProductIdIsBytesOneAndTwo : Prop :=
  ∀ (s : State) (b0 b1 b2 b3 : Byte) (rxs : List RxEvent),
    s.rxIn = .byte b0 :: .byte b1 :: .byte b2 :: .byte b3 :: rxs →
    ∃ pid : Half, pid.toNat = b1.toNat * 256 + b2.toNat ∧
      let u : State := { s with
        resp := #v[b0, b1, b2, b3]
        pid := pid
        pidValid := true
        rxIn := rxs
        trace := s.trace ++ [.rxRead 4 s.cfg.tResp (.ok [b0, b1, b2, b3]), .report (.productId pid)] }
      (s.imgPresent = true → exec .getidResp s = .next { u with ph := .fetch }) ∧
      (s.imgPresent = false → exec .getidResp s = .next (finished u))

/-- What `GETVER.RESP`, `GETID.RESP` and `RDRESP` leave alone, whatever the answers, each by itself: nothing is sent; a failed
read is fatal at the current phase, never with `NACK`; `GETVER.RESP` leaves the product ID, `GETID.RESP` the version, and
`RDRESP`, when it succeeds, everything but `RESP` (43_orchestrator.md section 2, 60_exceptions.md section 1). -/
def Obligations.ResponseFrame : Prop :=
  ∀ s : State,
    (∃ t, exec .getverResp s = .next t ∧
      (ReadFailed s t ∨ t.ph = .getidCmd ∧ t.verValid = true ∧ StatusKept s t) ∧
      { t with
        resp := s.resp, ver := s.ver, verValid := s.verValid, ph := s.ph, exitStatus := s.exitStatus,
        failStep := s.failStep, failClass := s.failClass, errKind := s.errKind, held := s.held, rxIn := s.rxIn,
        draws := s.draws, trace := s.trace } = s) ∧
    (∃ t, exec .getidResp s = .next t ∧
      (ReadFailed s t ∨
        t.ph = .fetch ∧ t.pidValid = true ∧ StatusKept s t ∨
        t.ph = .done ∧ t.pidValid = true ∧ t.exitStatus = .success ∧ t.held = false ∧ t.failStep = s.failStep ∧
          t.failClass = s.failClass ∧ t.errKind = s.errKind) ∧
      { t with
        resp := s.resp, pid := s.pid, pidValid := s.pidValid, ph := s.ph, exitStatus := s.exitStatus,
        failStep := s.failStep, failClass := s.failClass, errKind := s.errKind, held := s.held, rxIn := s.rxIn,
        draws := s.draws, trace := s.trace } = s) ∧
    (∃ t, exec .rdresp s = .next t ∧
      (ReadFailed s t ∧
        { t with
          ph := s.ph, exitStatus := s.exitStatus, failStep := s.failStep, failClass := s.failClass,
          errKind := s.errKind, held := s.held, rxIn := s.rxIn, draws := s.draws, trace := s.trace } = s ∨
      { t with resp := s.resp, rxIn := s.rxIn, draws := s.draws, trace := s.trace } = s))

/-- Identification only: after the product ID, without an image, the session is over with success, and no `ImgNext`, no
Memory-Write and no Go is made; with an image the record loop begins (43_orchestrator.md R167). -/
def Obligations.WithoutImageTheSessionStops : Prop :=
  ∀ (s : State) (b0 b1 b2 b3 : Byte) (rxs : List RxEvent),
    s.rxIn = .byte b0 :: .byte b1 :: .byte b2 :: .byte b3 :: rxs → ∃ t, exec .getidResp s = .next t ∧
      (s.imgPresent = false → t.ph = .done ∧ t.held = false ∧ t.exitStatus = .success ∧ t.tx = s.tx ∧ t.img = s.img ∧
        ∀ a, t.trace.count (.imgNext a) = s.trace.count (.imgNext a)) ∧
      (s.imgPresent = true → t.ph = .fetch)

/-! ### Image lines -/

/-- `FETCH` at the end of the image (43_orchestrator.md section 3). -/
def Obligations.EndOfImageGoesToGo : Prop :=
  ∀ s : State, s.img = [] →
    exec .fetch s = .next { s with ph := .goCmd, trace := s.trace ++ [.imgNext none] }

/-- `FETCH` of a line: the line is consumed, counted and held, and then does what the form it decodes to does
(43_orchestrator.md section 3, 30_encoding.md section 3). -/
def Obligations.FetchRunsTheLinesForm : Prop :=
  ∀ (s : State) (cs : Line) (rest : List Line), s.img = cs :: rest → cs.length ≤ s.cfg.lineMax →
    ∃ t, exec .fetch s = .next t ∧
      exec (decodeLine s.cfg.hexLower cs).form { s with
        img := rest
        ln := s.ln + 1
        lb := cs
        lbLen := cs.length
        trace := s.trace ++ [.imgNext (some cs)] } = .next t

/-- A line over `LINE_MAX` is refused (20_memory.md section 3, 93_implementation_defined.md U4, which have a model refuse the
session); that the refusal falls at the `FETCH` that meets the line is the model's choice (log 12). -/
def Obligations.OverlongLineIsRefused : Prop :=
  ∀ (s : State) (cs : Line) (rest : List Line), s.img = cs :: rest → s.cfg.lineMax < cs.length →
    exec .fetch s = .refused .lineTooLong

/-- `BLANK`: no record, no diagnostic, nothing else (42_record_decoder.md sections 1 and 2; what is blank is the spec's decision
D16). That the other record registers keep what they held is the model's reading (log 9). -/
def Obligations.BlankLineDoesNothingElse : Prop :=
  ∀ s : State, exec .blank s = .next { s with recValid := false }

/-- `SKIP.TAG`, `SKIP.HDR`, `SKIP.LEN`, `SKIP.DATA`: one diagnostic with the reason and the line number, no record, nothing
sent, no other effect; the other record registers are unspecified (42_record_decoder.md sections 2 and 3). -/
def Obligations.SkippedLineIsOnlyReported : Prop :=
  ∀ (s : State) (i : Instr) (r : SkipReason),
    (i, r) ∈ [(Instr.skipTag, SkipReason.tag), (.skipHdr, .hdr), (.skipLen, .len), (.skipData, .data)] →
    ∃ t, exec i s = .next t ∧ t.recValid = false ∧ t.trace = s.trace ++ [.diagSkip r s.ln] ∧
      { t with
        recValid := s.recValid, recAddr := s.recAddr, recLen := s.recLen, lenField := s.lenField, recData := s.recData,
        draws := s.draws, trace := s.trace } = s

/-- `REC`: the record registers, then the write sequence (42_record_decoder.md section 2). -/
def Obligations.RecordLineIsLatched : Prop :=
  ∀ (s : State) (a : Word) (d : List Byte), d.length ≤ 64 →
    ∃ t, exec (.record a d) s = .next t ∧ t.ph = .wrCmd ∧ t.recValid = true ∧ t.recAddr = a ∧ t.recLen = d.length ∧
      t.lenField.toNat = d.length + 5 ∧ recordBytes t = d ∧
      { t with
        ph := s.ph, recValid := s.recValid, recAddr := s.recAddr, recLen := s.recLen, lenField := s.lenField,
        recData := s.recData, draws := s.draws } = s

/-- `DECODE`: the record registers by the line in `LB[0..LB_LEN]` alone, and nothing else (42_record_decoder.md section 1). -/
def Obligations.DecodeWritesOnlyTheRecord : Prop :=
  ∀ s : State, ∃ t, exec .decode s = .next t ∧
    (∀ a d, decodeLine s.cfg.hexLower (s.lb.take s.lbLen) = .record a d →
      t.recValid = true ∧ t.recAddr = a ∧ t.recLen = d.length ∧ t.lenField.toNat = d.length + 5 ∧ recordBytes t = d) ∧
    ((∀ a d, decodeLine s.cfg.hexLower (s.lb.take s.lbLen) ≠ .record a d) → t.recValid = false) ∧
    { t with
      recValid := s.recValid, recAddr := s.recAddr, recLen := s.recLen, lenField := s.lenField, recData := s.recData,
      draws := s.draws } = s

/-! ### The session's ends -/

/-- `START` is accepted in `IDLE` and ignored elsewhere (43_orchestrator.md section 1; the spec's decisions D4, D29). -/
def Obligations.StartOnlyInIdle : Prop :=
  ∀ (s : State) (img : Bool),
    (s.ph = .idle → exec (.start img) s = .next { s with imgPresent := img, held := true, ln := 0, ph := .sync }) ∧
    (s.ph ≠ .idle → exec (.start img) s = .next s)

/-- `FINISH` (43_orchestrator.md section 4; one release a session is the spec's decision D23). -/
def Obligations.FinishReportsAndReleases : Prop := ∀ s : State, exec .finish s = .next (finished s)

/-- `FATAL`: the abort path, with the kind of each class (60_exceptions.md sections 1 and 4; the order is the spec's decision
D31). -/
def Obligations.AbortPathRecordsAndReleases : Prop :=
  ∀ (s : State) (p : Phase),
    exec (.fatal p .nack) s = .next (aborted p .nack .protocol s) ∧
    exec (.fatal p .timeout) s = .next (aborted p .timeout .protocol s) ∧
    exec (.fatal p .io) s = .next (aborted p .io .link s) ∧
    exec (.fatal p .syncExhausted) s = .next (aborted p .syncExhausted .link s)

/-! ### The step -/

/-- A step runs the operation `PH` selects, or the one called by itself; in `IDLE`, `DONE`, `FAIL` it rests
(43_orchestrator.md section 1; calling an operation by itself and the queue
of control inputs are the model's choice, logs 15 and 16). -/
def Obligations.StepRunsTheSelectedOperation : Prop :=
  ∀ (s : State) (i : Instr) (cs : List Ctl),
    (s.ctl = [] → s.call = none → select s = .op i → step s = exec i s) ∧
    (s.ctl = [] → s.call = none → select s = .rest → step s = .next s) ∧
    (s.ctl = [] → s.call = some i → step s = exec i { s with call := none }) ∧
    (s.ctl = .quiet :: cs → s.call = none → select s = .op i → step s = exec i { s with ctl := cs })

/-- A word the decoder takes, placed, is what the next step runs: the phase and the operand registers it needs are set, or it is
called by itself, and `step` is its meaning there (how a word comes to be the next operation is the model's choice, log 17). -/
def Obligations.PlacedWordRuns : Prop :=
  ∀ (s : State) (nbits w : Nat) (i : Instr), decodeTableWord nbits w = some i →
    step (s.withFetchWord nbits w) = exec i { placeInstr i s with call := none }

/-- The control inputs at a boundary. `START` is the operation `START`, with the image the host has opened; where it is accepted
with an image, the session starts with that image's lines, from the first (70_reset_and_hazards.md section 2, duty 3). `RESET` in
`IDLE`, `DONE`, `FAIL` gives every register its reset value and empties the ghosts, in a session it is refused (section 1 there).
The model's choices in it: the values of the registers that the spec leaves unspecified after `RESET` (log 8), what stays of the
environment (log 14), the queue with one input an entry (log 15), and that the image comes with `START` (log 32). -/
def Obligations.ControlInputsAtTheBoundary : Prop :=
  ∀ (s : State) (image : Option (List Line)) (cs : List Ctl),
    (s.ctl = .start image :: cs → step s =
      exec (.start image.isSome) { s with ctl := cs, img := if s.ph = .idle then image.getD s.img else s.img }) ∧
    (∀ ls, s.ctl = .start (some ls) :: cs → s.ph = .idle →
      ∃ t, step s = .next t ∧ t.ph = .sync ∧ t.imgPresent = true ∧ t.img = ls ∧ t.ln = 0) ∧
    (s.ctl = .reset :: cs → s.ph ∈ [Phase.idle, .done, .fail] → step s = .next { State.reset with
      cfg := s.cfg, ctl := cs, txIn := s.txIn, rxIn := s.rxIn, img := s.img, draws := s.draws, call := s.call }) ∧
    (s.ctl = .reset :: cs → s.ph ∉ [Phase.idle, .done, .fail] → step s = .refused .resetInSession)

/-- Which operation each phase selects, with the operands its rule names (43_orchestrator.md sections 1 to 4); without a valid
record the address and the data, of 0 to 64 bytes, are free values (10_state.md section 8, 93_implementation_defined.md U2; that
the operation is selected all the same is the model's reading, log 13). -/
def Obligations.PhaseSelectsItsOperation : Prop :=
  ∀ s : State,
    (s.ph ∈ [Phase.idle, .done, .fail] → select s = .rest) ∧
    (s.ph = .sync → select s = .op .sync) ∧
    (s.ph = .getverCmd → select s = .op .getverCmd) ∧
    (s.ph = .getverResp → select s = .op .getverResp) ∧
    (s.ph = .getidCmd → select s = .op .getidCmd) ∧
    (s.ph = .getidResp → select s = .op .getidResp) ∧
    (s.ph = .fetch → select s = .op .fetch) ∧
    (s.ph = .wrCmd → select s = .op .wrmemCmd) ∧
    (s.ph = .wrAddr → s.recValid = true → select s = .op (.wrmemAddr s.recAddr)) ∧
    (s.ph = .wrData → s.recValid = true → select s = .op (.wrmemData (s.recData.toList.take s.recLen))) ∧
    (s.ph = .wrAddr → s.recValid = false → ∃ a, select s = .op (.wrmemAddr a)) ∧
    (s.ph = .wrData → s.recValid = false → ∃ d, d.length ≤ 64 ∧ select s = .op (.wrmemData d)) ∧
    (s.ph = .goCmd → select s = .op .goCmd) ∧
    (s.ph = .goAddr → s.entryValid = true → select s = .op (.goAddr s.entryAddr)) ∧
    (s.ph = .goAddr → s.entryValid = false → select s = .op (.goAddr 0x00000000))

/-! ### The whole machine -/

/-- The values `RESET` leaves that the spec gives (10_state.md section 8, the spec's decision D4). -/
def Obligations.ResetValues : Prop :=
  let s := State.reset
  s.ph = .idle ∧ s.ln = 0 ∧ s.att = 0 ∧ s.outcomeValid = false ∧ s.imgPresent = false ∧ s.entryValid = false ∧
  s.verValid = false ∧ s.pidValid = false ∧ s.recValid = false ∧ s.failStep = none ∧ s.failClass = .none ∧
  s.errKind = .none ∧ s.held = false ∧ s.wlog = [] ∧ s.trace = []

/-- The three invariants hold at reset, under every configuration. Their clauses on `LB`, `LB_LEN`, `REC_LEN` and `EXIT_STATUS`
rest there on the reset values that the model chose (log 8). -/
def Obligations.ResetMeetsTheInvariants : Prop :=
  ∀ c : Cfg, Inv { State.reset with cfg := c } ∧ WireInv { State.reset with cfg := c } ∧
    CountInv { State.reset with cfg := c }

/-- Every step keeps the invariant: `HELD` exactly in a session, the record's length law, the 27 fatal pairs with their kinds,
exit status 0 in `DONE` and 2 in `FAIL` and never 1, identification before every write, the entry address the first
acknowledged record's, the record of a failed write still held, one release and it is last (10_state.md sections 2 to 6). Over a
`RESET` step the clauses `recLenWidth`, `lineLen`, `lineMax` and `exitNeverOne` rest on reset values the model chose (log 8). -/
def Obligations.StepKeepsTheInvariant : Prop := ∀ s t : State, Inv s → step s = .next t → Inv t

/-- No operation moves `PH` but along the table of transitions (43_orchestrator.md section 5), in every state. -/
def Obligations.PhaseTransitions : Prop :=
  ∀ s t : State, s.ctl = [] → s.call = none → step s = .next t → transition s.ph t.ph = true

/-- Without a failed write, `TX` carries exactly the frames of the sequence: sync bytes, identification, three frames for each
acknowledged record in file order, Go with the entry address; in `FAIL`, up to the failing frame (30_encoding.md section 3,
95_test_vectors.md sections 6 and 8). Over a `RESET` step it rests on `RESET` emptying `TX`, the model's choice (log 14). -/
def Obligations.StepKeepsTheWireInvariant : Prop :=
  ∀ s t : State, Inv s → WireInv s → step s = .next t → WireInv t

/-- DOC1's counting law: one write and one read for each sync attempt, two writes and one read for each exchange, one read for
each response block; three exchanges a record, none for any other line; in `DONE`, 2 exchanges, or `2 + 3 r + 2` with an image
of `r` records (43_orchestrator.md R179). -/
def Obligations.RequestsAreCounted : Prop :=
  (∀ s t : State, Inv s → CountInv s → step s = .next t → CountInv t) ∧
  (∀ s : State, CountInv s → s.ph = .done →
    s.trace.countP isTxWrite = s.att + (if s.imgPresent then 2 * (4 + 3 * s.wlog.length) else 4) ∧
    s.trace.countP isRxRead = s.att + (if s.imgPresent then 2 + 3 * s.wlog.length + 2 else 2) + 2)

/-- The entry address is set once: no operation changes it after (10_state.md section 3, 43_orchestrator.md section 3). -/
def Obligations.EntryAddressIsSetOnce : Prop :=
  ∀ s t : State, s.ctl.head? ≠ some .reset → s.entryValid = true → step s = .next t →
    t.entryValid = true ∧ t.entryAddr = s.entryAddr

/-- The write log grows only in `WR_DATA`, by the record in hand where one is valid, when its data exchange was acknowledged (43_orchestrator.md
section 3; the write log is the spec's decision D26). -/
def Obligations.WriteLogGrowsByTheRecordInHand : Prop :=
  ∀ s t : State, s.ctl.head? ≠ some .reset → s.call = none → step s = .next t →
    t.wlog = s.wlog ∨
    s.ph = .wrData ∧ t.ph = .fetch ∧ t.outcome = .acknowledged ∧
      ∃ a d, t.wlog = s.wlog ++ [(a, d)] ∧ (s.recValid = true → a = s.recAddr ∧ d = recordBytes s)

/-- The engine uses the transport only while it owns it (10_state.md section 6): a step from a state of a run that does not
hold it makes no request. The image changes only where the host opens one for the session, which a `START` brings (log 32). -/
def Obligations.NoRequestUnlessHeld : Prop :=
  ∀ s t : State, Inv s → s.held = false → s.ctl.head? ≠ some .reset → step s = .next t →
    t.trace = s.trace ∧ t.tx = s.tx ∧ t.txIn = s.txIn ∧ t.rxIn = s.rxIn ∧
      (t.img = s.img ∨ ∃ ls cs, s.ph = .idle ∧ s.ctl = .start (some ls) :: cs ∧ t.img = ls)

/-- Requests are irrevocable: the trace and the transmit stream only grow, from every state, until a `RESET` (20_memory.md
section 6). -/
def Obligations.TraceAndTransmitOnlyGrow : Prop :=
  ∀ s t : State, s.ctl.head? ≠ some .reset → step s = .next t → s.trace <+: t.trace ∧ s.tx <+: t.tx

/-- The configuration is constant for a session (10_state.md section 6). That it stays over a `RESET` (log 14), and that no step
of any kind, in any state, changes the field (log 10), is the model's choice. -/
def Obligations.ConfigurationIsConstant : Prop := ∀ s t : State, step s = .next t → t.cfg = s.cfg

/-- A run stops for two reasons only, both the host's: a line over `LINE_MAX`, and `RESET` in a session. No answer of the
transport and no data ever stop it (60_exceptions.md sections 2 and 4, 20_memory.md section 3, 70_reset_and_hazards.md
section 1). The model's choices in it: the long line stops the `FETCH` that meets it (log 12), and every write is answered
(log 6). -/
def Obligations.OnlyTheHostCanStopARun : Prop :=
  ∀ s : State, Inv s →
    (∃ t, step s = .next t) ∨
    (step s = .refused .lineTooLong ∧ s.ph = .fetch ∧ ∃ cs rest, s.img = cs :: rest ∧ s.cfg.lineMax < cs.length) ∨
    (step s = .refused .resetInSession ∧ inSession s.ph = true ∧ s.ctl.head? = some .reset)

/-- A session over a finite image ends (43_orchestrator.md section 5): from every state of a run in a session, whatever the
transport answers, at most `budget s` operations later the phase is `DONE` or `FAIL`. It rests on every write being answered,
which the spec assumes too (log 6; 70_reset_and_hazards.md section 3 R236, 93_implementation_defined.md U8). -/
def Obligations.SessionEnds : Prop :=
  ∀ s : State, Inv s → s.ctl = [] → inSession s.ph = true → (∀ cs ∈ s.img, cs.length ≤ s.cfg.lineMax) →
    ∃ k t, k ≤ budget s ∧ Host.Core.run core k s = .next t ∧ terminal t.ph = true

/-- What a fatal condition records: step, class, kind and exit status, and nothing else: line number, record, version, product
ID, entry address and the last response keep what they held, and a host can still read the line number, the address of the
record in hand, version and product ID (60_exceptions.md section 1). That a host reads the line number and the record's address,
which 10_state.md section 6 calls internal, is the model's choice between the two (log 30). -/
def Obligations.FailureKeepsTheOtherRegisters : Prop :=
  ∀ s t : State, s.ph ≠ .fail → s.ctl.head? ≠ some .reset → s.call = none → step s = .next t → t.ph = .fail →
    t.failStep = some s.ph ∧ t.failClass ≠ .none ∧ t.errKind = kindOf t.failClass ∧ t.exitStatus = .protocolFailure ∧
    t.ln = s.ln ∧ t.recValid = s.recValid ∧ t.recAddr = s.recAddr ∧ t.recLen = s.recLen ∧ t.lenField = s.lenField ∧
    t.recData = s.recData ∧ t.verValid = s.verValid ∧ t.ver = s.ver ∧ t.pidValid = s.pidValid ∧ t.pid = s.pid ∧
    t.entryValid = s.entryValid ∧ t.entryAddr = s.entryAddr ∧ t.resp = s.resp ∧ t.imgPresent = s.imgPresent ∧
    t.lb = s.lb ∧ t.lbLen = s.lbLen ∧ t.wlog = s.wlog ∧
    (hostView t).ln = some s.ln ∧
    (inRecord s.ph = true → s.recValid = true → (hostView t).recAddr = some s.recAddr) ∧
    (s.verValid = true → (hostView t).ver = some s.ver) ∧ (s.pidValid = true → (hostView t).pid = some s.pid)

/-- There is no return from the abort path: in `FAIL` nothing happens and only `RESET` leaves it (60_exceptions.md R202). -/
def Obligations.FailIsTerminal : Prop :=
  ∀ s t : State, s.ph = .fail → s.call = none → step s = .next t →
    (s.ctl.head? ≠ some .reset → t = { s with ctl := s.ctl.tail }) ∧ (s.ctl.head? = some .reset → t.ph = .idle)

/-- Go comes only after the loop, and the loop ends only at `eof`; an image with no decodable record, however long, goes straight
on to `GO_CMD` with no entry address, and nothing is sent on the way (43_orchestrator.md R175). -/
def Obligations.GoComesOnlyAfterTheImage : Prop :=
  (∀ s t : State, s.ctl = [] → s.call = none → step s = .next t → t.ph = .goCmd → s.ph = .fetch ∧ s.img = []) ∧
  (∀ s : State, s.ctl = [] → s.call = none → s.ph = .fetch → s.entryValid = false →
    (∀ cs ∈ s.img, cs.length ≤ s.cfg.lineMax ∧ ∀ a d, decodeLine s.cfg.hexLower cs ≠ .record a d) →
    ∃ t, Host.Core.run core (s.img.length + 1) s = .next t ∧ t.ph = .goCmd ∧ t.entryValid = false ∧ t.tx = s.tx ∧
      t.ln = s.ln + s.img.length)

/-- What the host reads (10_state.md sections 6 and 8, 60_exceptions.md section 1): the exit status only at the end, 0 in `DONE`
and 2 in `FAIL`; version, product ID and entry address behind their valid bits; in `FAIL` also the line number, and the record's
address if the failing step is `WR_*`. That these two are read in `FAIL` alone is the model's choice (log 30). -/
def Obligations.HostReadsBehindTheGuards : Prop :=
  ∀ s : State, Inv s →
    (terminal s.ph = false → (hostView s).exitStatus = none) ∧
    (s.ph = .done → (hostView s).exitStatus = some 0 ∧ (hostView s).failStep = 0) ∧
    (s.ph = .fail → (hostView s).exitStatus = some 2 ∧ (hostView s).failStep ∉ [0, 6, 12, 13] ∧
      (hostView s).failClass ≠ 0 ∧ (hostView s).errKind ≠ 0) ∧
    ((hostView s).ln = if s.ph = .fail then some s.ln else none) ∧
    ((hostView s).recAddr = if s.ph = .fail ∧ (hostView s).failStep ∈ [7, 8, 9] then some s.recAddr else none) ∧
    ((hostView s).ver = if s.verValid then some s.ver else none) ∧
    ((hostView s).pid = if s.pidValid then some s.pid else none) ∧
    ((hostView s).entryAddr = if s.entryValid then some s.entryAddr else none)
end

