-- ==== Sys2Proof/Laws/Operands.lean ====
section
/-! SUPPORT. Laws of the checksum, of hex digits and of the record buffer. -/

namespace Sys2Proof.Machine

@[simp] theorem xorfold_nil : xorfold [] = 0 := rfl

@[simp] theorem xorfold_cons (b : Byte) (bs : List Byte) : xorfold (b :: bs) = b ^^^ xorfold bs := rfl

theorem xorfold_append (p q : List Byte) : xorfold (p ++ q) = xorfold p ^^^ xorfold q := by
  induction p with
  | nil => simp
  | cons b bs ih => simp [ih, BitVec.xor_assoc]

theorem cks_single (b : Byte) : cks [b] = 0xFF - b := rfl

theorem cks_of_length_ne_one {p : List Byte} (h : p.length ≠ 1) : cks p = xorfold p := by
  match p with
  | [] => rfl
  | [_] => simp at h
  | _ :: _ :: _ => rfl

theorem ofBe32_getLsbD (b3 b2 b1 b0 : Byte) (i : Nat) : (ofBe32 b3 b2 b1 b0).getLsbD i =
    if i < 8 then b0.getLsbD i else if i < 16 then b1.getLsbD (i - 8) else if i < 24 then b2.getLsbD (i - 16)
      else b3.getLsbD (i - 24) := by
  unfold ofBe32
  erw [BitVec.getLsbD_append, BitVec.getLsbD_append, BitVec.getLsbD_append]
  split_ifs <;> first | omega | rfl

theorem be32_ofBe32 (b3 b2 b1 b0 : Byte) : be32 (ofBe32 b3 b2 b1 b0) = [b3, b2, b1, b0] := by
  simp only [be32, List.cons.injEq, and_true]
  refine ⟨?_, ?_, ?_, ?_⟩ <;> refine BitVec.eq_of_getLsbD_eq fun i hi => ?_ <;>
    simp only [BitVec.getLsbD_extractLsb', ofBe32_getLsbD] <;> split_ifs <;> simp_all <;> omega

theorem ofBe32_be32 (a : Word) :
    ofBe32 (a.extractLsb' 24 8) (a.extractLsb' 16 8) (a.extractLsb' 8 8) (a.extractLsb' 0 8) = a := by
  refine BitVec.eq_of_getLsbD_eq fun i hi => ?_
  simp only [ofBe32_getLsbD, BitVec.getLsbD_extractLsb']
  split_ifs <;> (rw [decide_eq_true (by omega), Bool.true_and]; congr 1; omega)

theorem overlay_take {d : List Byte} (v : Vector Byte 64) (h : d.length ≤ 64) :
    (overlay d v).toList.take d.length = d := by
  apply List.ext_getElem
  · simp [overlay]; omega
  · intro i h1 h2
    simp [overlay, h2]

end Sys2Proof.Machine
end

