-- ==== Sys2Proof/Laws/Decode.lean ====
section
/-! SUPPORT. Laws of the decoder: hex digits written and read back, a text that holds given bytes, the parts of a frame. -/

namespace Sys2Proof

open Sys2Proof.Machine

/-! ### Well-formedness -/

theorem wf_wrmemData {d : List Byte} : (Instr.wrmemData d).wf = true ↔ d.length ≤ 64 := decide_eq_true_iff

theorem wf_record {a : Word} {d : List Byte} : (Instr.record a d).wf = true ↔ d.length ≤ 64 := decide_eq_true_iff

theorem wf_xchg {p : List Byte} {t : ReplyTimeout} : (Instr.xchg p t).wf = true ↔ 1 ≤ p.length ∧ p.length ≤ 65 :=
  Bool.and_eq_true_iff.trans (and_congr decide_eq_true_iff decide_eq_true_iff)

theorem wf_nack {b : Byte} : (Instr.nack b).wf = true ↔ b ≠ 0x79 := bne_iff_ne

/-! ### Hex digits -/

theorem hexval_hexDigit (lower : Bool) (n : BitVec 4) : hexval lower (hexDigit n) = some (n.setWidth 8) := by
  revert n; cases lower <;> decide

theorem nibbles (b : Byte) : (b.extractLsb' 4 4).setWidth 8 * 16 + (b.extractLsb' 0 4).setWidth 8 = b := by
  revert b; decide

theorem hexbyte_hexDigits (lower : Bool) (b : Byte) :
    hexbyte lower (hexDigit (b.extractLsb' 4 4)) (hexDigit (b.extractLsb' 0 4)) = some b := by
  simp only [hexbyte, hexval_hexDigit, nibbles]

theorem hexPairs_hexOfAll (lower : Bool) (d : List Byte) (rest : Line) :
    hexPairs lower d.length (hexOfAll d ++ rest) = some d := by
  induction d with
  | nil => rfl
  | cons b bs ih => simp [hexOfAll, hexOf, hexPairs, hexbyte_hexDigits, ih]

/-- A text of hex pairs reads as `d` exactly when each pair of it reads as the byte of `d` at its place. -/
theorem hexPairs_eq_some (lower : Bool) : ∀ (n : Nat) (cs : Line) (d : List Byte),
    hexPairs lower n cs = some d ↔
      d.length = n ∧ 2 * n ≤ cs.length ∧
        ∀ i, i < n → hexbyte lower (cs.getD (2 * i) 0) (cs.getD (2 * i + 1) 0) = d[i]?
  | 0, cs, d => by
    simp only [hexPairs, Option.some.injEq]
    constructor
    · rintro rfl; simp
    · rintro ⟨h, -⟩; exact (List.length_eq_zero_iff.1 h).symm
  | n + 1, [], d => by simp [hexPairs]
  | n + 1, [c], d => by simp [hexPairs]; omega
  | n + 1, c1 :: c2 :: cs, d => by
    have ih := hexPairs_eq_some lower n cs
    have hshift : ∀ i, (c1 :: c2 :: cs).getD (2 * (i + 1)) 0 = cs.getD (2 * i) 0 ∧
        (c1 :: c2 :: cs).getD (2 * (i + 1) + 1) 0 = cs.getD (2 * i + 1) 0 := fun i => by
      rw [show 2 * (i + 1) = 2 * i + 1 + 1 by omega]; simp
    constructor
    · intro h
      simp only [hexPairs] at h
      split at h
      · next b bs hb hbs =>
        cases h
        obtain ⟨h1, h2, h3⟩ := (ih bs).1 hbs
        refine ⟨by simp [h1], by simp; omega, fun i hi => ?_⟩
        cases i with
        | zero => simpa using hb
        | succ i => rw [(hshift i).1, (hshift i).2, h3 i (by omega)]; simp
      · cases h
    · rintro ⟨h1, h2, h3⟩
      cases d with
      | nil => simp at h1
      | cons b bs =>
        have hb : hexbyte lower c1 c2 = some b := by simpa using h3 0 (by omega)
        have hbs : hexPairs lower n cs = some bs := (ih bs).2 ⟨by simpa using h1, by simp at h2; omega, fun i hi => by
          have := h3 (i + 1) (by omega)
          rw [(hshift i).1, (hshift i).2] at this
          simpa using this⟩
        simp [hexPairs, hb, hbs]

/-- A text has no `n` hex pairs exactly when one of its first `2 n` characters is missing or is no digit. -/
theorem hexPairs_eq_none (lower : Bool) : ∀ (n : Nat) (cs : Line),
    hexPairs lower n cs = none ↔ ∃ i, i < 2 * n ∧ ¬ (i < cs.length ∧ hexval lower (cs.getD i 0) ≠ none)
  | 0, cs => by simp [hexPairs]
  | n + 1, [] => by
    simp only [hexPairs, true_iff]
    exact ⟨0, by omega, by simp⟩
  | n + 1, [c] => by
    simp only [hexPairs, true_iff]
    exact ⟨1, by omega, by simp⟩
  | n + 1, c1 :: c2 :: cs => by
    have ih := hexPairs_eq_none lower n cs
    have hstep : hexPairs lower (n + 1) (c1 :: c2 :: cs) = none ↔
        hexval lower c1 = none ∨ hexval lower c2 = none ∨ hexPairs lower n cs = none := by
      simp only [hexPairs, hexbyte]
      cases hexval lower c1 <;> cases hexval lower c2 <;> cases hexPairs lower n cs <;> simp
    rw [hstep, ih]
    constructor
    · rintro (h | h | ⟨i, hi, h⟩)
      · exact ⟨0, by omega, by simp [h]⟩
      · exact ⟨1, by omega, by simp [h]⟩
      · exact ⟨i + 2, by omega, by simpa using h⟩
    · rintro ⟨i, hi, h⟩
      match i with
      | 0 => exact .inl (by simpa using h)
      | 1 => exact .inr (.inl (by simpa using h))
      | i + 2 => exact .inr (.inr ⟨i, by omega, by simpa using h⟩)

/-! ### Frames -/

@[simp] theorem frame_length (p : List Byte) : (frame p).length = p.length + 1 := by simp [frame]

@[simp] theorem frame_dropLast (p : List Byte) : (frame p).dropLast = p := by simp [frame]

@[simp] theorem frame_getLastD (p : List Byte) (d : Byte) : (frame p).getLastD d = cks p := by simp [frame]

theorem frame_of_checksum {bs : List Byte} (hne : bs ≠ []) (h : bs.getLastD 0 = cks bs.dropLast) :
    frame bs.dropLast = bs := by
  rw [frame, ← h, List.getLastD_eq_getLast?, List.getLast?_eq_getLast_of_ne_nil hne]
  exact List.dropLast_append_getLast hne

theorem commandOf_eq_some {c : Byte} {i : Instr} : commandOf c = some i ↔
    c = 0x01 ∧ i = .getverCmd ∨ c = 0x02 ∧ i = .getidCmd ∨ c = 0x31 ∧ i = .wrmemCmd ∨ c = 0x21 ∧ i = .goCmd := by
  constructor
  · intro h
    unfold commandOf at h
    by_cases h1 : c = 0x01
    · subst h1; exact .inl ⟨rfl, (Option.some.inj h).symm⟩
    by_cases h2 : c = 0x02
    · subst h2; exact .inr (.inl ⟨rfl, (Option.some.inj h).symm⟩)
    by_cases h3 : c = 0x31
    · subst h3; exact .inr (.inr (.inl ⟨rfl, (Option.some.inj h).symm⟩))
    by_cases h4 : c = 0x21
    · subst h4; exact .inr (.inr (.inr ⟨rfl, (Option.some.inj h).symm⟩))
    rw [Config.cmdGetver, Config.cmdGetid, Config.cmdWrmem, Config.cmdGo, if_neg h1, if_neg h2, if_neg h3, if_neg h4] at h
    cases h
  · rintro (⟨rfl, rfl⟩ | ⟨rfl, rfl⟩ | ⟨rfl, rfl⟩ | ⟨rfl, rfl⟩) <;> rfl

end Sys2Proof
end

