-- ==== Sys2Proof/Laws/Lines.lean ====
section
/-! SUPPORT. Laws of image lines: what the decoder answers, by the characters at each position. -/

namespace Sys2Proof

open Sys2Proof.Machine Sys2Proof.Safety

theorem hexbyte_eq_none {lower : Bool} {c1 c2 : Byte} :
    hexbyte lower c1 c2 = none ↔ hexval lower c1 = none ∨ hexval lower c2 = none := by
  unfold hexbyte
  cases hexval lower c1 <;> cases hexval lower c2 <;> simp

theorem hexbyte_isSome {lower : Bool} {c1 c2 : Byte} :
    (∃ b, hexbyte lower c1 c2 = some b) ↔ hexval lower c1 ≠ none ∧ hexval lower c2 ≠ none := by
  rw [← Option.ne_none_iff_exists', ne_eq, hexbyte_eq_none, not_or]

theorem decodeLine_nil (lower : Bool) : decodeLine lower [] = .nothing := rfl

/-- A line that is not blank and has not the tag. -/
theorem decodeLine_untagged {lower : Bool} {cs : Line} (h0 : cs ≠ []) (h : ¬ tagged cs) :
    decodeLine lower cs = .skip .tag := by
  match cs with
  | [] => exact absurd rfl h0
  | [_] => rfl
  | c0 :: c1 :: rest =>
    simp only [decodeLine]
    rw [if_neg]
    rintro ⟨h1, h2⟩
    exact h ⟨by simp, by simpa [Config.tagS] using h1, by simpa [Config.tag3] using h2⟩

theorem decodeLine_tagged {lower : Bool} {cs : Line} (h : tagged cs) :
    decodeLine lower cs = decodeHeader lower (cs.drop 2) := by
  match cs, h with
  | [], h => exact absurd h.1 (by simp)
  | [_], h => exact absurd h.1 (by simp)
  | c0 :: c1 :: rest, h =>
    have h1 : c0 = Config.tagS := h.2.1
    have h2 : c1 = Config.tag3 := h.2.2
    simp [decodeLine, h1, h2]

/-- The tag is there, a digit of the header is not. -/
theorem decodeLine_unheaded {lower : Bool} {cs : Line} (ht : tagged cs) (h : ¬ headed lower cs) :
    decodeLine lower cs = .skip .hdr := by
  rw [decodeLine_tagged ht]
  unfold decodeHeader
  split
  · next rest l1 l0 c7 c6 c5 c4 c3 c2 c1 c0 body heq =>
    split
    · next h1 h2 h3 h4 h5 =>
      exfalso
      apply h
      obtain ⟨x, y, rfl⟩ : ∃ x y, cs = x :: y :: (l1 :: l0 :: c7 :: c6 :: c5 :: c4 :: c3 :: c2 :: c1 :: c0 :: body) := by
        match cs, ht.1 with
        | x :: y :: r, _ => exact ⟨x, y, by simpa using heq⟩
      obtain ⟨g1, g2⟩ := hexbyte_isSome.1 ⟨_, h1⟩
      obtain ⟨g3, g4⟩ := hexbyte_isSome.1 ⟨_, h2⟩
      obtain ⟨g5, g6⟩ := hexbyte_isSome.1 ⟨_, h3⟩
      obtain ⟨g7, g8⟩ := hexbyte_isSome.1 ⟨_, h4⟩
      obtain ⟨g9, g10⟩ := hexbyte_isSome.1 ⟨_, h5⟩
      refine ⟨ht, fun i h2i hi => ⟨by simp; omega, ?_⟩⟩
      match i, h2i, hi with
      | 2, _, _ | 3, _, _ | 4, _, _ | 5, _, _ | 6, _, _ | 7, _, _ | 8, _, _ | 9, _, _ | 10, _, _ | 11, _, _ => simpa
    · rfl
  · rfl

/-- Tag and header are there: the length field and the address are read, and then the length is judged. -/
theorem decodeLine_headed {lower : Bool} {cs : Line} (h : headed lower cs) : ∃ lf a,
    byteAt lower cs 2 = some lf ∧ byteAt lower cs 4 = some (a.extractLsb' 24 8) ∧
    byteAt lower cs 6 = some (a.extractLsb' 16 8) ∧ byteAt lower cs 8 = some (a.extractLsb' 8 8) ∧
    byteAt lower cs 10 = some (a.extractLsb' 0 8) ∧ 12 ≤ cs.length ∧
    decodeLine lower cs = decodeLength lower lf a (cs.drop 12) := by
  have hd := h.2
  have hlen : 11 < cs.length := (hd 11 (by omega) (by omega)).1
  match cs, hlen with
  | x :: y :: l1 :: l0 :: c7 :: c6 :: c5 :: c4 :: c3 :: c2 :: c1 :: c0 :: body, _ =>
    have hx : ∀ i, 2 ≤ i → i < 12 → _ := fun i h1 h2 => (hd i h1 h2).2
    obtain ⟨lf, h1⟩ := hexbyte_isSome.2 ⟨hx 2 (by omega) (by omega), hx 3 (by omega) (by omega)⟩
    obtain ⟨a3, h2⟩ := hexbyte_isSome.2 ⟨hx 4 (by omega) (by omega), hx 5 (by omega) (by omega)⟩
    obtain ⟨a2, h3⟩ := hexbyte_isSome.2 ⟨hx 6 (by omega) (by omega), hx 7 (by omega) (by omega)⟩
    obtain ⟨a1, h4⟩ := hexbyte_isSome.2 ⟨hx 8 (by omega) (by omega), hx 9 (by omega) (by omega)⟩
    obtain ⟨a0, h5⟩ := hexbyte_isSome.2 ⟨hx 10 (by omega) (by omega), hx 11 (by omega) (by omega)⟩
    have hb := be32_ofBe32 a3 a2 a1 a0
    simp only [be32, List.cons.injEq, and_true] at hb
    refine ⟨lf, ofBe32 a3 a2 a1 a0, h1, ?_, ?_, ?_, ?_, by simp, ?_⟩
    · rw [hb.1]; exact h2
    · rw [hb.2.1]; exact h3
    · rw [hb.2.2.1]; exact h4
    · rw [hb.2.2.2]; exact h5
    · rw [decodeLine_tagged h.1]
      simp at h1 h2 h3 h4 h5
      simp only [List.drop_succ_cons, List.drop_zero, decodeHeader, h1, h2, h3, h4, h5]

/-- The length test by the value of the field. -/
theorem decodeLength_cases (lower : Bool) (lf : Byte) (a : Word) (body : Line) :
    (lf.toNat < 5 ∨ 69 < lf.toNat) ∧ decodeLength lower lf a body = .skip .len ∨
    (∃ n, n ≤ 64 ∧ lf = BitVec.ofNat 8 (n + 5) ∧ lf.toNat = n + 5 ∧
      decodeLength lower lf a body = decodeData lower a n body) := by
  unfold decodeLength Config.lenOverhead Config.maxData
  by_cases h : lf.toNat < 5 ∨ 69 < lf.toNat
  · exact .inl ⟨h, if_pos (by omega)⟩
  · refine .inr ⟨lf.toNat - 5, by omega, ?_, by omega, ?_⟩
    · apply BitVec.eq_of_toNat_eq
      rw [BitVec.toNat_ofNat]; omega
    · simp only
      rw [if_neg (by omega), show ((lf.toNat : Int) - (5 : Nat)).toNat = lf.toNat - 5 by omega]

/-- A decoded record holds at most 64 bytes, and it has exactly the digits its length asks for. -/
theorem decodeLine_record {lower : Bool} {cs : Line} {a : Word} {d : List Byte} (h : decodeLine lower cs = .record a d) :
    headed lower cs ∧ d.length ≤ 64 ∧ hexPairs lower d.length (cs.drop 12) = some d := by
  have hh : headed lower cs := by
    by_contra hn
    by_cases h0 : cs = []
    · subst h0; cases h
    · by_cases ht : tagged cs
      · rw [decodeLine_unheaded ht hn] at h; cases h
      · rw [decodeLine_untagged h0 ht] at h; cases h
  obtain ⟨lf, a', -, -, -, -, -, -, hd⟩ := decodeLine_headed hh
  rw [h] at hd
  rcases decodeLength_cases lower lf a' (cs.drop 12) with ⟨-, he⟩ | ⟨n, hn, -, -, he⟩
  · rw [he] at hd; cases hd
  · rw [he, decodeData] at hd
    cases hp : hexPairs lower n (cs.drop 12) with
    | none => simp [hp] at hd
    | some d' =>
      simp only [hp, Verdict.record.injEq] at hd
      obtain ⟨-, rfl⟩ := hd
      have hl := ((hexPairs_eq_some lower n _ d).1 hp).1
      subst hl
      exact ⟨hh, hn, hp⟩

theorem decodeLine_record_length {lower : Bool} {cs : Line} {a : Word} {d : List Byte}
    (h : decodeLine lower cs = .record a d) : d.length ≤ 64 := (decodeLine_record h).2.1

/-- A length field has one length. -/
theorem lengthOk_unique {lower : Bool} {cs : Line} {n m : Nat} (hn : lengthOk lower cs n) (hm : lengthOk lower cs m) :
    n = m := by
  have := hn.2.symm.trans hm.2
  have h1 := hn.1
  have h2 := hm.1
  have := congrArg BitVec.toNat (Option.some.inj this)
  simp only [BitVec.toNat_ofNat] at this
  omega

end Sys2Proof
end

