-- ==== Sys2Proof/Laws/State.lean ====
section
/-! SUPPORT. One lemma for each field and each state update, so that no proof unfolds a record update. -/

namespace Sys2Proof.Machine

section
variable (s : State) (e : Event)
@[simp] theorem State.log_ph : (s.log e).ph = s.ph := rfl
@[simp] theorem State.log_ln : (s.log e).ln = s.ln := rfl
@[simp] theorem State.log_att : (s.log e).att = s.att := rfl
@[simp] theorem State.log_outcomeValid : (s.log e).outcomeValid = s.outcomeValid := rfl
@[simp] theorem State.log_outcome : (s.log e).outcome = s.outcome := rfl
@[simp] theorem State.log_imgPresent : (s.log e).imgPresent = s.imgPresent := rfl
@[simp] theorem State.log_entryValid : (s.log e).entryValid = s.entryValid := rfl
@[simp] theorem State.log_entryAddr : (s.log e).entryAddr = s.entryAddr := rfl
@[simp] theorem State.log_verValid : (s.log e).verValid = s.verValid := rfl
@[simp] theorem State.log_ver : (s.log e).ver = s.ver := rfl
@[simp] theorem State.log_pidValid : (s.log e).pidValid = s.pidValid := rfl
@[simp] theorem State.log_pid : (s.log e).pid = s.pid := rfl
@[simp] theorem State.log_recValid : (s.log e).recValid = s.recValid := rfl
@[simp] theorem State.log_recAddr : (s.log e).recAddr = s.recAddr := rfl
@[simp] theorem State.log_recLen : (s.log e).recLen = s.recLen := rfl
@[simp] theorem State.log_lenField : (s.log e).lenField = s.lenField := rfl
@[simp] theorem State.log_cks : (s.log e).cks = s.cks := rfl
@[simp] theorem State.log_resp : (s.log e).resp = s.resp := rfl
@[simp] theorem State.log_recData : (s.log e).recData = s.recData := rfl
@[simp] theorem State.log_lb : (s.log e).lb = s.lb := rfl
@[simp] theorem State.log_lbLen : (s.log e).lbLen = s.lbLen := rfl
@[simp] theorem State.log_exitStatus : (s.log e).exitStatus = s.exitStatus := rfl
@[simp] theorem State.log_failStep : (s.log e).failStep = s.failStep := rfl
@[simp] theorem State.log_failClass : (s.log e).failClass = s.failClass := rfl
@[simp] theorem State.log_errKind : (s.log e).errKind = s.errKind := rfl
@[simp] theorem State.log_held : (s.log e).held = s.held := rfl
@[simp] theorem State.log_cfg : (s.log e).cfg = s.cfg := rfl
@[simp] theorem State.log_trace : (s.log e).trace = s.trace ++ [e] := rfl
@[simp] theorem State.log_wlog : (s.log e).wlog = s.wlog := rfl
@[simp] theorem State.log_tx : (s.log e).tx = s.tx := rfl
@[simp] theorem State.log_ctl : (s.log e).ctl = s.ctl := rfl
@[simp] theorem State.log_txIn : (s.log e).txIn = s.txIn := rfl
@[simp] theorem State.log_rxIn : (s.log e).rxIn = s.rxIn := rfl
@[simp] theorem State.log_img : (s.log e).img = s.img := rfl
@[simp] theorem State.log_draws : (s.log e).draws = s.draws := rfl
@[simp] theorem State.log_call : (s.log e).call = s.call := rfl
end

section
variable (s : State) (p : Phase)
@[simp] theorem State.goto_ph : (s.goto p).ph = p := rfl
@[simp] theorem State.goto_ln : (s.goto p).ln = s.ln := rfl
@[simp] theorem State.goto_att : (s.goto p).att = s.att := rfl
@[simp] theorem State.goto_outcomeValid : (s.goto p).outcomeValid = s.outcomeValid := rfl
@[simp] theorem State.goto_outcome : (s.goto p).outcome = s.outcome := rfl
@[simp] theorem State.goto_imgPresent : (s.goto p).imgPresent = s.imgPresent := rfl
@[simp] theorem State.goto_entryValid : (s.goto p).entryValid = s.entryValid := rfl
@[simp] theorem State.goto_entryAddr : (s.goto p).entryAddr = s.entryAddr := rfl
@[simp] theorem State.goto_verValid : (s.goto p).verValid = s.verValid := rfl
@[simp] theorem State.goto_ver : (s.goto p).ver = s.ver := rfl
@[simp] theorem State.goto_pidValid : (s.goto p).pidValid = s.pidValid := rfl
@[simp] theorem State.goto_pid : (s.goto p).pid = s.pid := rfl
@[simp] theorem State.goto_recValid : (s.goto p).recValid = s.recValid := rfl
@[simp] theorem State.goto_recAddr : (s.goto p).recAddr = s.recAddr := rfl
@[simp] theorem State.goto_recLen : (s.goto p).recLen = s.recLen := rfl
@[simp] theorem State.goto_lenField : (s.goto p).lenField = s.lenField := rfl
@[simp] theorem State.goto_cks : (s.goto p).cks = s.cks := rfl
@[simp] theorem State.goto_resp : (s.goto p).resp = s.resp := rfl
@[simp] theorem State.goto_recData : (s.goto p).recData = s.recData := rfl
@[simp] theorem State.goto_lb : (s.goto p).lb = s.lb := rfl
@[simp] theorem State.goto_lbLen : (s.goto p).lbLen = s.lbLen := rfl
@[simp] theorem State.goto_exitStatus : (s.goto p).exitStatus = s.exitStatus := rfl
@[simp] theorem State.goto_failStep : (s.goto p).failStep = s.failStep := rfl
@[simp] theorem State.goto_failClass : (s.goto p).failClass = s.failClass := rfl
@[simp] theorem State.goto_errKind : (s.goto p).errKind = s.errKind := rfl
@[simp] theorem State.goto_held : (s.goto p).held = s.held := rfl
@[simp] theorem State.goto_cfg : (s.goto p).cfg = s.cfg := rfl
@[simp] theorem State.goto_trace : (s.goto p).trace = s.trace := rfl
@[simp] theorem State.goto_wlog : (s.goto p).wlog = s.wlog := rfl
@[simp] theorem State.goto_tx : (s.goto p).tx = s.tx := rfl
@[simp] theorem State.goto_ctl : (s.goto p).ctl = s.ctl := rfl
@[simp] theorem State.goto_txIn : (s.goto p).txIn = s.txIn := rfl
@[simp] theorem State.goto_rxIn : (s.goto p).rxIn = s.rxIn := rfl
@[simp] theorem State.goto_img : (s.goto p).img = s.img := rfl
@[simp] theorem State.goto_draws : (s.goto p).draws = s.draws := rfl
@[simp] theorem State.goto_call : (s.goto p).call = s.call := rfl
end

section
variable (s : State) (o : ExchangeOutcome)
@[simp] theorem State.setOutcome_ph : (s.setOutcome o).ph = s.ph := rfl
@[simp] theorem State.setOutcome_ln : (s.setOutcome o).ln = s.ln := rfl
@[simp] theorem State.setOutcome_att : (s.setOutcome o).att = s.att := rfl
@[simp] theorem State.setOutcome_outcomeValid : (s.setOutcome o).outcomeValid = true := rfl
@[simp] theorem State.setOutcome_outcome : (s.setOutcome o).outcome = o := rfl
@[simp] theorem State.setOutcome_imgPresent : (s.setOutcome o).imgPresent = s.imgPresent := rfl
@[simp] theorem State.setOutcome_entryValid : (s.setOutcome o).entryValid = s.entryValid := rfl
@[simp] theorem State.setOutcome_entryAddr : (s.setOutcome o).entryAddr = s.entryAddr := rfl
@[simp] theorem State.setOutcome_verValid : (s.setOutcome o).verValid = s.verValid := rfl
@[simp] theorem State.setOutcome_ver : (s.setOutcome o).ver = s.ver := rfl
@[simp] theorem State.setOutcome_pidValid : (s.setOutcome o).pidValid = s.pidValid := rfl
@[simp] theorem State.setOutcome_pid : (s.setOutcome o).pid = s.pid := rfl
@[simp] theorem State.setOutcome_recValid : (s.setOutcome o).recValid = s.recValid := rfl
@[simp] theorem State.setOutcome_recAddr : (s.setOutcome o).recAddr = s.recAddr := rfl
@[simp] theorem State.setOutcome_recLen : (s.setOutcome o).recLen = s.recLen := rfl
@[simp] theorem State.setOutcome_lenField : (s.setOutcome o).lenField = s.lenField := rfl
@[simp] theorem State.setOutcome_cks : (s.setOutcome o).cks = s.cks := rfl
@[simp] theorem State.setOutcome_resp : (s.setOutcome o).resp = s.resp := rfl
@[simp] theorem State.setOutcome_recData : (s.setOutcome o).recData = s.recData := rfl
@[simp] theorem State.setOutcome_lb : (s.setOutcome o).lb = s.lb := rfl
@[simp] theorem State.setOutcome_lbLen : (s.setOutcome o).lbLen = s.lbLen := rfl
@[simp] theorem State.setOutcome_exitStatus : (s.setOutcome o).exitStatus = s.exitStatus := rfl
@[simp] theorem State.setOutcome_failStep : (s.setOutcome o).failStep = s.failStep := rfl
@[simp] theorem State.setOutcome_failClass : (s.setOutcome o).failClass = s.failClass := rfl
@[simp] theorem State.setOutcome_errKind : (s.setOutcome o).errKind = s.errKind := rfl
@[simp] theorem State.setOutcome_held : (s.setOutcome o).held = s.held := rfl
@[simp] theorem State.setOutcome_cfg : (s.setOutcome o).cfg = s.cfg := rfl
@[simp] theorem State.setOutcome_trace : (s.setOutcome o).trace = s.trace := rfl
@[simp] theorem State.setOutcome_wlog : (s.setOutcome o).wlog = s.wlog := rfl
@[simp] theorem State.setOutcome_tx : (s.setOutcome o).tx = s.tx := rfl
@[simp] theorem State.setOutcome_ctl : (s.setOutcome o).ctl = s.ctl := rfl
@[simp] theorem State.setOutcome_txIn : (s.setOutcome o).txIn = s.txIn := rfl
@[simp] theorem State.setOutcome_rxIn : (s.setOutcome o).rxIn = s.rxIn := rfl
@[simp] theorem State.setOutcome_img : (s.setOutcome o).img = s.img := rfl
@[simp] theorem State.setOutcome_draws : (s.setOutcome o).draws = s.draws := rfl
@[simp] theorem State.setOutcome_call : (s.setOutcome o).call = s.call := rfl
end

section
variable (s : State) (k : Byte)
@[simp] theorem State.setCks_ph : (s.setCks k).ph = s.ph := rfl
@[simp] theorem State.setCks_ln : (s.setCks k).ln = s.ln := rfl
@[simp] theorem State.setCks_att : (s.setCks k).att = s.att := rfl
@[simp] theorem State.setCks_outcomeValid : (s.setCks k).outcomeValid = s.outcomeValid := rfl
@[simp] theorem State.setCks_outcome : (s.setCks k).outcome = s.outcome := rfl
@[simp] theorem State.setCks_imgPresent : (s.setCks k).imgPresent = s.imgPresent := rfl
@[simp] theorem State.setCks_entryValid : (s.setCks k).entryValid = s.entryValid := rfl
@[simp] theorem State.setCks_entryAddr : (s.setCks k).entryAddr = s.entryAddr := rfl
@[simp] theorem State.setCks_verValid : (s.setCks k).verValid = s.verValid := rfl
@[simp] theorem State.setCks_ver : (s.setCks k).ver = s.ver := rfl
@[simp] theorem State.setCks_pidValid : (s.setCks k).pidValid = s.pidValid := rfl
@[simp] theorem State.setCks_pid : (s.setCks k).pid = s.pid := rfl
@[simp] theorem State.setCks_recValid : (s.setCks k).recValid = s.recValid := rfl
@[simp] theorem State.setCks_recAddr : (s.setCks k).recAddr = s.recAddr := rfl
@[simp] theorem State.setCks_recLen : (s.setCks k).recLen = s.recLen := rfl
@[simp] theorem State.setCks_lenField : (s.setCks k).lenField = s.lenField := rfl
@[simp] theorem State.setCks_cks : (s.setCks k).cks = k := rfl
@[simp] theorem State.setCks_resp : (s.setCks k).resp = s.resp := rfl
@[simp] theorem State.setCks_recData : (s.setCks k).recData = s.recData := rfl
@[simp] theorem State.setCks_lb : (s.setCks k).lb = s.lb := rfl
@[simp] theorem State.setCks_lbLen : (s.setCks k).lbLen = s.lbLen := rfl
@[simp] theorem State.setCks_exitStatus : (s.setCks k).exitStatus = s.exitStatus := rfl
@[simp] theorem State.setCks_failStep : (s.setCks k).failStep = s.failStep := rfl
@[simp] theorem State.setCks_failClass : (s.setCks k).failClass = s.failClass := rfl
@[simp] theorem State.setCks_errKind : (s.setCks k).errKind = s.errKind := rfl
@[simp] theorem State.setCks_held : (s.setCks k).held = s.held := rfl
@[simp] theorem State.setCks_cfg : (s.setCks k).cfg = s.cfg := rfl
@[simp] theorem State.setCks_trace : (s.setCks k).trace = s.trace := rfl
@[simp] theorem State.setCks_wlog : (s.setCks k).wlog = s.wlog := rfl
@[simp] theorem State.setCks_tx : (s.setCks k).tx = s.tx := rfl
@[simp] theorem State.setCks_ctl : (s.setCks k).ctl = s.ctl := rfl
@[simp] theorem State.setCks_txIn : (s.setCks k).txIn = s.txIn := rfl
@[simp] theorem State.setCks_rxIn : (s.setCks k).rxIn = s.rxIn := rfl
@[simp] theorem State.setCks_img : (s.setCks k).img = s.img := rfl
@[simp] theorem State.setCks_draws : (s.setCks k).draws = s.draws := rfl
@[simp] theorem State.setCks_call : (s.setCks k).call = s.call := rfl
end

section
variable (s : State) (r : Vector Byte 4)
@[simp] theorem State.setResp_ph : (s.setResp r).ph = s.ph := rfl
@[simp] theorem State.setResp_ln : (s.setResp r).ln = s.ln := rfl
@[simp] theorem State.setResp_att : (s.setResp r).att = s.att := rfl
@[simp] theorem State.setResp_outcomeValid : (s.setResp r).outcomeValid = s.outcomeValid := rfl
@[simp] theorem State.setResp_outcome : (s.setResp r).outcome = s.outcome := rfl
@[simp] theorem State.setResp_imgPresent : (s.setResp r).imgPresent = s.imgPresent := rfl
@[simp] theorem State.setResp_entryValid : (s.setResp r).entryValid = s.entryValid := rfl
@[simp] theorem State.setResp_entryAddr : (s.setResp r).entryAddr = s.entryAddr := rfl
@[simp] theorem State.setResp_verValid : (s.setResp r).verValid = s.verValid := rfl
@[simp] theorem State.setResp_ver : (s.setResp r).ver = s.ver := rfl
@[simp] theorem State.setResp_pidValid : (s.setResp r).pidValid = s.pidValid := rfl
@[simp] theorem State.setResp_pid : (s.setResp r).pid = s.pid := rfl
@[simp] theorem State.setResp_recValid : (s.setResp r).recValid = s.recValid := rfl
@[simp] theorem State.setResp_recAddr : (s.setResp r).recAddr = s.recAddr := rfl
@[simp] theorem State.setResp_recLen : (s.setResp r).recLen = s.recLen := rfl
@[simp] theorem State.setResp_lenField : (s.setResp r).lenField = s.lenField := rfl
@[simp] theorem State.setResp_cks : (s.setResp r).cks = s.cks := rfl
@[simp] theorem State.setResp_resp : (s.setResp r).resp = r := rfl
@[simp] theorem State.setResp_recData : (s.setResp r).recData = s.recData := rfl
@[simp] theorem State.setResp_lb : (s.setResp r).lb = s.lb := rfl
@[simp] theorem State.setResp_lbLen : (s.setResp r).lbLen = s.lbLen := rfl
@[simp] theorem State.setResp_exitStatus : (s.setResp r).exitStatus = s.exitStatus := rfl
@[simp] theorem State.setResp_failStep : (s.setResp r).failStep = s.failStep := rfl
@[simp] theorem State.setResp_failClass : (s.setResp r).failClass = s.failClass := rfl
@[simp] theorem State.setResp_errKind : (s.setResp r).errKind = s.errKind := rfl
@[simp] theorem State.setResp_held : (s.setResp r).held = s.held := rfl
@[simp] theorem State.setResp_cfg : (s.setResp r).cfg = s.cfg := rfl
@[simp] theorem State.setResp_trace : (s.setResp r).trace = s.trace := rfl
@[simp] theorem State.setResp_wlog : (s.setResp r).wlog = s.wlog := rfl
@[simp] theorem State.setResp_tx : (s.setResp r).tx = s.tx := rfl
@[simp] theorem State.setResp_ctl : (s.setResp r).ctl = s.ctl := rfl
@[simp] theorem State.setResp_txIn : (s.setResp r).txIn = s.txIn := rfl
@[simp] theorem State.setResp_rxIn : (s.setResp r).rxIn = s.rxIn := rfl
@[simp] theorem State.setResp_img : (s.setResp r).img = s.img := rfl
@[simp] theorem State.setResp_draws : (s.setResp r).draws = s.draws := rfl
@[simp] theorem State.setResp_call : (s.setResp r).call = s.call := rfl
end

section
variable (s : State)
@[simp] theorem release_ph : (release s).ph = s.ph := rfl
@[simp] theorem release_ln : (release s).ln = s.ln := rfl
@[simp] theorem release_att : (release s).att = s.att := rfl
@[simp] theorem release_outcomeValid : (release s).outcomeValid = s.outcomeValid := rfl
@[simp] theorem release_outcome : (release s).outcome = s.outcome := rfl
@[simp] theorem release_imgPresent : (release s).imgPresent = s.imgPresent := rfl
@[simp] theorem release_entryValid : (release s).entryValid = s.entryValid := rfl
@[simp] theorem release_entryAddr : (release s).entryAddr = s.entryAddr := rfl
@[simp] theorem release_verValid : (release s).verValid = s.verValid := rfl
@[simp] theorem release_ver : (release s).ver = s.ver := rfl
@[simp] theorem release_pidValid : (release s).pidValid = s.pidValid := rfl
@[simp] theorem release_pid : (release s).pid = s.pid := rfl
@[simp] theorem release_recValid : (release s).recValid = s.recValid := rfl
@[simp] theorem release_recAddr : (release s).recAddr = s.recAddr := rfl
@[simp] theorem release_recLen : (release s).recLen = s.recLen := rfl
@[simp] theorem release_lenField : (release s).lenField = s.lenField := rfl
@[simp] theorem release_cks : (release s).cks = s.cks := rfl
@[simp] theorem release_resp : (release s).resp = s.resp := rfl
@[simp] theorem release_recData : (release s).recData = s.recData := rfl
@[simp] theorem release_lb : (release s).lb = s.lb := rfl
@[simp] theorem release_lbLen : (release s).lbLen = s.lbLen := rfl
@[simp] theorem release_exitStatus : (release s).exitStatus = s.exitStatus := rfl
@[simp] theorem release_failStep : (release s).failStep = s.failStep := rfl
@[simp] theorem release_failClass : (release s).failClass = s.failClass := rfl
@[simp] theorem release_errKind : (release s).errKind = s.errKind := rfl
@[simp] theorem release_held : (release s).held = false := rfl
@[simp] theorem release_cfg : (release s).cfg = s.cfg := rfl
@[simp] theorem release_trace : (release s).trace = s.trace ++ [.release] := rfl
@[simp] theorem release_wlog : (release s).wlog = s.wlog := rfl
@[simp] theorem release_tx : (release s).tx = s.tx := rfl
@[simp] theorem release_ctl : (release s).ctl = s.ctl := rfl
@[simp] theorem release_txIn : (release s).txIn = s.txIn := rfl
@[simp] theorem release_rxIn : (release s).rxIn = s.rxIn := rfl
@[simp] theorem release_img : (release s).img = s.img := rfl
@[simp] theorem release_draws : (release s).draws = s.draws := rfl
@[simp] theorem release_call : (release s).call = s.call := rfl
end

section
variable (s : State)
@[simp] theorem invalidate_ph : (invalidate s).ph = s.ph := rfl
@[simp] theorem invalidate_ln : (invalidate s).ln = s.ln := rfl
@[simp] theorem invalidate_att : (invalidate s).att = s.att := rfl
@[simp] theorem invalidate_outcomeValid : (invalidate s).outcomeValid = s.outcomeValid := rfl
@[simp] theorem invalidate_outcome : (invalidate s).outcome = s.outcome := rfl
@[simp] theorem invalidate_imgPresent : (invalidate s).imgPresent = s.imgPresent := rfl
@[simp] theorem invalidate_entryValid : (invalidate s).entryValid = s.entryValid := rfl
@[simp] theorem invalidate_entryAddr : (invalidate s).entryAddr = s.entryAddr := rfl
@[simp] theorem invalidate_verValid : (invalidate s).verValid = s.verValid := rfl
@[simp] theorem invalidate_ver : (invalidate s).ver = s.ver := rfl
@[simp] theorem invalidate_pidValid : (invalidate s).pidValid = s.pidValid := rfl
@[simp] theorem invalidate_pid : (invalidate s).pid = s.pid := rfl
@[simp] theorem invalidate_recValid : (invalidate s).recValid = false := rfl
@[simp] theorem invalidate_recAddr : (invalidate s).recAddr = s.recAddr := rfl
@[simp] theorem invalidate_recLen : (invalidate s).recLen = s.recLen := rfl
@[simp] theorem invalidate_lenField : (invalidate s).lenField = s.lenField := rfl
@[simp] theorem invalidate_cks : (invalidate s).cks = s.cks := rfl
@[simp] theorem invalidate_resp : (invalidate s).resp = s.resp := rfl
@[simp] theorem invalidate_recData : (invalidate s).recData = s.recData := rfl
@[simp] theorem invalidate_lb : (invalidate s).lb = s.lb := rfl
@[simp] theorem invalidate_lbLen : (invalidate s).lbLen = s.lbLen := rfl
@[simp] theorem invalidate_exitStatus : (invalidate s).exitStatus = s.exitStatus := rfl
@[simp] theorem invalidate_failStep : (invalidate s).failStep = s.failStep := rfl
@[simp] theorem invalidate_failClass : (invalidate s).failClass = s.failClass := rfl
@[simp] theorem invalidate_errKind : (invalidate s).errKind = s.errKind := rfl
@[simp] theorem invalidate_held : (invalidate s).held = s.held := rfl
@[simp] theorem invalidate_cfg : (invalidate s).cfg = s.cfg := rfl
@[simp] theorem invalidate_trace : (invalidate s).trace = s.trace := rfl
@[simp] theorem invalidate_wlog : (invalidate s).wlog = s.wlog := rfl
@[simp] theorem invalidate_tx : (invalidate s).tx = s.tx := rfl
@[simp] theorem invalidate_ctl : (invalidate s).ctl = s.ctl := rfl
@[simp] theorem invalidate_txIn : (invalidate s).txIn = s.txIn := rfl
@[simp] theorem invalidate_rxIn : (invalidate s).rxIn = s.rxIn := rfl
@[simp] theorem invalidate_img : (invalidate s).img = s.img := rfl
@[simp] theorem invalidate_draws : (invalidate s).draws = s.draws := rfl
@[simp] theorem invalidate_call : (invalidate s).call = s.call := rfl
end

section
variable (d : List Byte) (s : State)
@[simp] theorem memWrite_ph : (memWrite d s).ph = s.ph := rfl
@[simp] theorem memWrite_ln : (memWrite d s).ln = s.ln := rfl
@[simp] theorem memWrite_att : (memWrite d s).att = s.att := rfl
@[simp] theorem memWrite_outcomeValid : (memWrite d s).outcomeValid = s.outcomeValid := rfl
@[simp] theorem memWrite_outcome : (memWrite d s).outcome = s.outcome := rfl
@[simp] theorem memWrite_imgPresent : (memWrite d s).imgPresent = s.imgPresent := rfl
@[simp] theorem memWrite_entryValid : (memWrite d s).entryValid = s.entryValid := rfl
@[simp] theorem memWrite_entryAddr : (memWrite d s).entryAddr = s.entryAddr := rfl
@[simp] theorem memWrite_verValid : (memWrite d s).verValid = s.verValid := rfl
@[simp] theorem memWrite_ver : (memWrite d s).ver = s.ver := rfl
@[simp] theorem memWrite_pidValid : (memWrite d s).pidValid = s.pidValid := rfl
@[simp] theorem memWrite_pid : (memWrite d s).pid = s.pid := rfl
@[simp] theorem memWrite_recValid : (memWrite d s).recValid = s.recValid := rfl
@[simp] theorem memWrite_recAddr : (memWrite d s).recAddr = s.recAddr := rfl
@[simp] theorem memWrite_recLen : (memWrite d s).recLen = s.recLen := rfl
@[simp] theorem memWrite_lenField : (memWrite d s).lenField = s.lenField := rfl
@[simp] theorem memWrite_cks : (memWrite d s).cks = s.cks := rfl
@[simp] theorem memWrite_resp : (memWrite d s).resp = s.resp := rfl
@[simp] theorem memWrite_recData : (memWrite d s).recData = s.recData := rfl
@[simp] theorem memWrite_lb : (memWrite d s).lb = s.lb := rfl
@[simp] theorem memWrite_lbLen : (memWrite d s).lbLen = s.lbLen := rfl
@[simp] theorem memWrite_exitStatus : (memWrite d s).exitStatus = s.exitStatus := rfl
@[simp] theorem memWrite_failStep : (memWrite d s).failStep = s.failStep := rfl
@[simp] theorem memWrite_failClass : (memWrite d s).failClass = s.failClass := rfl
@[simp] theorem memWrite_errKind : (memWrite d s).errKind = s.errKind := rfl
@[simp] theorem memWrite_held : (memWrite d s).held = s.held := rfl
@[simp] theorem memWrite_cfg : (memWrite d s).cfg = s.cfg := rfl
@[simp] theorem memWrite_trace : (memWrite d s).trace = s.trace := rfl
@[simp] theorem memWrite_wlog : (memWrite d s).wlog = s.wlog ++ [(heldAddr s, d)] := rfl
@[simp] theorem memWrite_tx : (memWrite d s).tx = s.tx := rfl
@[simp] theorem memWrite_ctl : (memWrite d s).ctl = s.ctl := rfl
@[simp] theorem memWrite_txIn : (memWrite d s).txIn = s.txIn := rfl
@[simp] theorem memWrite_rxIn : (memWrite d s).rxIn = s.rxIn := rfl
@[simp] theorem memWrite_img : (memWrite d s).img = s.img := rfl
@[simp] theorem memWrite_draws : (memWrite d s).draws = s.draws := rfl
@[simp] theorem memWrite_call : (memWrite d s).call = s.call := rfl
end

end Sys2Proof.Machine
end

