-- ==== Sys2Proof/Laws/Ops.lean ====
section
/-! SUPPORT. What each shared operation can do, said once. -/

namespace Sys2Proof.Machine

open Sys2Proof.Safety

/-! ### TxWrite -/

theorem txWrite_ok {s : State} {as : List TxAnswer} (bs : List Byte) (h : s.txIn = .ok :: as) :
    txWrite bs s = (true, { s with txIn := as, tx := s.tx ++ bs, trace := s.trace ++ [.txWrite bs true] }) := by
  simp [txWrite, nextTx, dropTx, h, State.log]

theorem txWrite_error {s : State} {as : List TxAnswer} {k : Nat} (bs : List Byte) (h : s.txIn = .error k :: as) :
    txWrite bs s = (false, { s with
      txIn := as, tx := s.tx ++ bs.take (k % bs.length), trace := s.trace ++ [.txWrite bs false] }) := by
  simp [txWrite, nextTx, dropTx, h, State.log]

/-- One byte: a short write takes none of it. -/
theorem txWrite_one {s : State} {a : TxAnswer} {as : List TxAnswer} (b : Byte) (h : s.txIn = a :: as) :
    txWrite [b] s = (tookAll a, { s with
      txIn := as, tx := s.tx ++ (if tookAll a then [b] else []), trace := s.trace ++ [.txWrite [b] (tookAll a)] }) := by
  cases a with
  | ok => simp [txWrite_ok [b] h, tookAll]
  | error k => simp [txWrite_error [b] h, tookAll, Nat.mod_one]

/-- Everything a `TxWrite` can do, whatever its answer. -/
theorem txWrite_spec (bs : List Byte) (s : State) : ∃ ok txs n out,
    txWrite bs s = (ok, { s with
      txIn := txs, draws := n, tx := s.tx ++ out, trace := s.trace ++ [.txWrite bs ok] }) ∧
    out <+: bs ∧ (ok = true → out = bs) := by
  cases hq : s.txIn with
  | nil =>
    cases ha : Config.freeTx s.draws with
    | ok => exact ⟨true, [], s.draws + 1, bs, by simp [txWrite, nextTx, dropTx, hq, ha, State.log], by simp⟩
    | error k =>
      exact ⟨false, [], s.draws + 1, bs.take (k % bs.length),
        by simp [txWrite, nextTx, dropTx, hq, ha, State.log], List.take_prefix _ _, by simp⟩
  | cons a as =>
    cases a with
    | ok => exact ⟨true, as, s.draws, bs, by simp [txWrite_ok bs hq], by simp⟩
    | error k =>
      exact ⟨false, as, s.draws, bs.take (k % bs.length), by simp [txWrite_error bs hq], List.take_prefix _ _, by simp⟩

/-! ### RxRead -/

/-- A polled turn takes exactly the next event. -/
theorem rxByte_polled {s : State} {t : Nat} {e : RxEvent} {es : List RxEvent} (ht : t ≠ 0) (h : s.rxIn = e :: es) :
    rxByte t s = (e, { s with rxIn := es }) := by
  cases e <;> simp [rxByte, ht, pollReadable, refillRx, h, underlyingRead, isTimedOut]

/-- A byte that is there is taken, polled or not. -/
theorem rxByte_byte {s : State} {b : Byte} {es : List RxEvent} (t : Nat) (h : s.rxIn = .byte b :: es) :
    rxByte t s = (.byte b, { s with rxIn := es }) := by
  by_cases ht : t = 0
  · simp [rxByte, ht, h, underlyingRead, isTimedOut]
  · exact rxByte_polled ht h

/-- Everything one turn of the read loop can do. -/
theorem rxByte_spec (t : Nat) (s : State) : ∃ e rxs n, rxByte t s = (e, { s with rxIn := rxs, draws := n }) := by
  have hu : ∀ u : State, ∃ b rxs n, underlyingRead u = (b, { u with rxIn := rxs, draws := n }) := by
    intro u
    unfold underlyingRead
    split
    · exact ⟨_, _, u.draws, rfl⟩
    · exact ⟨_, _, u.draws, rfl⟩
    · exact ⟨_, _, _, rfl⟩
  have hf : ∃ rxs n, refillRx s = { s with rxIn := rxs, draws := n } := by
    unfold refillRx
    split
    · exact ⟨_, _, rfl⟩
    · exact ⟨s.rxIn, s.draws, rfl⟩
  have hp : ∃ a rxs n, (if t = 0 then (Poll.ready, s) else pollReadable s) =
      (a, { s with rxIn := rxs, draws := n }) := by
    split
    · exact ⟨_, s.rxIn, s.draws, rfl⟩
    · obtain ⟨rxs, n, hr⟩ := hf
      unfold pollReadable
      split <;> rw [hr] <;> exact ⟨_, _, _, rfl⟩
  obtain ⟨a, rxs, n, hp⟩ := hp
  obtain ⟨b, rxs', n', hu⟩ := hu { s with rxIn := rxs, draws := n }
  cases a <;> cases b <;> simp only [rxByte, hp, hu] <;> exact ⟨_, _, _, rfl⟩

theorem rxCollect_spec (t : Nat) : ∀ (n : Nat) (got : List Byte) (s : State), ∃ a rxs m,
    rxCollect t n got s = (a, { s with rxIn := rxs, draws := m }) ∧
    (∀ bs, a = .ok bs → bs.length = got.length + n)
  | 0, got, s => ⟨_, s.rxIn, s.draws, rfl, by rintro bs ⟨⟩; simp⟩
  | n + 1, got, s => by
    obtain ⟨e, rxs, m, hb⟩ := rxByte_spec t s
    cases e with
    | byte b =>
      obtain ⟨a, rxs', m', h1, h2⟩ := rxCollect_spec t n (got ++ [b]) { s with rxIn := rxs, draws := m }
      refine ⟨a, rxs', m', by simp only [rxCollect, hb, h1], fun bs h => ?_⟩
      have := h2 bs h
      simp at this; omega
    | timedOut => exact ⟨.timedOut, rxs, m, by simp only [rxCollect, hb], by simp⟩
    | error => exact ⟨.error, rxs, m, by simp only [rxCollect, hb], by simp⟩

/-- Everything an `RxRead` can do, whatever its answer. -/
theorem rxRead_spec (n t : Nat) (s : State) : ∃ a rxs m,
    rxRead n t s = (a, { s with rxIn := rxs, draws := m, trace := s.trace ++ [.rxRead n t a] }) ∧
    (∀ bs, a = .ok bs → bs.length = n) := by
  obtain ⟨a, rxs, m, h1, h2⟩ := rxCollect_spec t n [] s
  exact ⟨a, rxs, m, by simp [rxRead, h1, State.log], fun bs h => by simpa using h2 bs h⟩

/-- A polled read of one byte answers by the next event. -/
theorem rxRead_one {s : State} {t : Nat} {e : RxEvent} {es : List RxEvent} (ht : t ≠ 0) (h : s.rxIn = e :: es) :
    rxRead 1 t s = (answerOf e, { s with rxIn := es, trace := s.trace ++ [.rxRead 1 t (answerOf e)] }) := by
  cases e <;> simp [rxRead, rxCollect, rxByte_polled ht h, answerOf, State.log]

/-- A read of four bytes that are there, polled or not. -/
theorem rxRead_four {s : State} {b0 b1 b2 b3 : Byte} {es : List RxEvent} (t : Nat)
    (h : s.rxIn = .byte b0 :: .byte b1 :: .byte b2 :: .byte b3 :: es) :
    rxRead 4 t s = (.ok [b0, b1, b2, b3],
      { s with rxIn := es, trace := s.trace ++ [.rxRead 4 t (.ok [b0, b1, b2, b3])] }) := by
  have h1 := rxByte_byte t h
  have h2 := rxByte_byte (s := { s with rxIn := .byte b1 :: .byte b2 :: .byte b3 :: es }) t rfl
  have h3 := rxByte_byte (s := { s with rxIn := .byte b2 :: .byte b3 :: es }) t rfl
  have h4 := rxByte_byte (s := { s with rxIn := .byte b3 :: es }) t rfl
  simp [rxRead, rxCollect, h1, h2, h3, h4, State.log]

/-- A polled read of `n` bytes that a wait running out ends after `k < n` of them: they are gone (20_memory.md R54). -/
theorem rxCollect_short {t : Nat} (ht : t ≠ 0) {e : RxEvent} (he : e = .timedOut ∨ e = .error) {es : List RxEvent} :
    ∀ (bs : List Byte) (n : Nat) (got : List Byte) (s : State), bs.length < n →
      s.rxIn = bs.map .byte ++ e :: es → rxCollect t n got s = (answerOf e, { s with rxIn := es })
  | [], n + 1, got, s, _, h => by
    have h1 := rxByte_polled ht (s := s) h
    rcases he with rfl | rfl <;> simp [rxCollect, h1, answerOf]
  | b :: bs, n + 1, got, s, hn, h => by
    have h1 := rxByte_polled ht (s := s) h
    have := rxCollect_short ht he bs n (got ++ [b]) { s with rxIn := bs.map .byte ++ e :: es } (by simpa using hn) rfl
    simp [rxCollect, h1, this]
  | _, 0, _, _, hn, _ => by simp at hn

theorem rxRead_short {s : State} {n t : Nat} {e : RxEvent} {bs : List Byte} {es : List RxEvent} (ht : t ≠ 0)
    (he : e = .timedOut ∨ e = .error) (hn : bs.length < n) (h : s.rxIn = bs.map .byte ++ e :: es) :
    rxRead n t s = (answerOf e, { s with rxIn := es, trace := s.trace ++ [.rxRead n t (answerOf e)] }) := by
  simp [rxRead, rxCollect_short ht he bs n [] s hn h, State.log]

/-! ### The terminal handlers -/

theorem fatal_eq (p : Phase) (c : FailClass) (s : State) : fatal p c s = aborted p c (kindOf c) s := by
  simp [fatal, aborted, release, State.log]

theorem finish_eq (s : State) : finish s = finished s := by
  simp [finish, finished, release, State.log]

/-! ### The exchange -/

theorem replyMs_ne_zero (t : ReplyTimeout) : replyMs t ≠ 0 := by cases t <;> decide

/-- An exchange by its answers, the payload taken. -/
theorem xchg_sent {s : State} {p : List Byte} {t : ReplyTimeout} {a : TxAnswer} {txs : List TxAnswer} {e : RxEvent}
    {rxs : List RxEvent} (ht : s.txIn = .ok :: a :: txs) (hr : s.rxIn = e :: rxs) :
    xchg p t s = exchanged p (replyMs t) a txs (answerOf e) rxs (classify (answerOf e)) s := by
  have h1 := txWrite_ok p ht
  have h2 := txWrite_one (a := a) (as := txs) (cks p) (s := { s with
    txIn := a :: txs, tx := s.tx ++ p, trace := s.trace ++ [.txWrite p true], cks := cks p }) rfl
  have h3 := rxRead_one (replyMs_ne_zero t) (es := rxs) (e := e) (s := { s with
    txIn := txs, tx := s.tx ++ p ++ (if tookAll a then [cks p] else []), cks := cks p,
    trace := s.trace ++ [.txWrite p true] ++ [.txWrite [cks p] (tookAll a)] }) hr
  simp only [xchg, h1, if_true, State.setCks, h2, h3]
  simp [exchanged, State.setOutcome]

/-- An exchange whose payload was not taken. -/
theorem xchg_unsent {s : State} {p : List Byte} {t : ReplyTimeout} {k : Nat} {txs : List TxAnswer}
    (ht : s.txIn = .error k :: txs) : xchg p t s = payloadFailed p k txs s := by
  simp [xchg, txWrite_error p ht, payloadFailed, State.setOutcome]

/-- Everything an exchange can do, whatever its answers. -/
theorem xchg_spec (p : List Byte) (t : ReplyTimeout) (s : State) : ∃ k o out txs rxs n l,
    xchg p t s = { s with
      cks := k, outcomeValid := true, outcome := o, tx := s.tx ++ out, txIn := txs, rxIn := rxs, draws := n,
      trace := s.trace ++ l } ∧
    Event.release ∉ l ∧ out <+: frame p ∧ (writesOk l → out = frame p) ∧
    (o = .acknowledged → l.countP isTxWrite = 2 ∧ l.countP isRxRead = 1) ∧
    (k = s.cks ∧ o = .ioFailure ∨ k = cks p ∧ ∃ r, o = classify r) := by
  obtain ⟨ok, txs, n, out, hw, hpre, hok⟩ := txWrite_spec p s
  cases ok with
  | false =>
    refine ⟨s.cks, .ioFailure, out, txs, s.rxIn, n, [.txWrite p false], ?_, by simp,
      hpre.trans (List.prefix_append _ _), ?_, by simp, .inl ⟨rfl, rfl⟩⟩
    · simp [xchg, hw, State.setOutcome]
    · intro h; exact absurd (List.mem_singleton.2 rfl) (h p)
  | true =>
    obtain ⟨ok2, txs2, n2, out2, hw2, hpre2, hok2⟩ := txWrite_spec [cks p] { s with
      txIn := txs, draws := n, tx := s.tx ++ out, trace := s.trace ++ [.txWrite p true], cks := cks p }
    obtain ⟨a, rxs, m, hr, _⟩ := rxRead_spec 1 (replyMs t) { s with
      txIn := txs2, draws := n2, tx := s.tx ++ out ++ out2, cks := cks p,
      trace := s.trace ++ [.txWrite p true] ++ [.txWrite [cks p] ok2] }
    refine ⟨cks p, classify a, out ++ out2, txs2, rxs, m,
      [.txWrite p true, .txWrite [cks p] ok2, .rxRead 1 (replyMs t) a], ?_, by simp,
      by rw [hok rfl, frame]; exact List.prefix_append_right_inj _ |>.2 hpre2, ?_, fun _ => ⟨rfl, rfl⟩, .inr ⟨rfl, _, rfl⟩⟩
    · simp only [xchg, hw, if_true, State.setCks, hw2, hr]
      simp [State.setOutcome]
    · intro h
      have h2 : ok2 = true := by
        by_contra hne
        rw [Bool.not_eq_true] at hne
        exact h [cks p] (by simp [hne])
      rw [hok rfl, hok2 h2, frame]

/-- `CHECK` passes exactly an acknowledge on. -/
theorem check_acknowledged {s : State} (k : State → State) (h : s.outcome = .acknowledged) : check k s = k s := by
  simp [check, h, classOf]

theorem check_failed {s : State} (k : State → State) {c : FailClass} (h : classOf s.outcome = some c) :
    check k s = fatal s.ph c s := by
  simp [check, h]

theorem classOf_pair {o : ExchangeOutcome} {c : FailClass} (h : classOf o = some c) :
    c = .nack ∨ c = .timeout ∨ c = .io := by
  cases o <;> simp [classOf] at h <;> simp [← h]

/-! ### The response read -/

/-- Everything the response read can do. -/
theorem readResponse_spec (k : State → State) (s : State) : ∃ rxs m a,
    let u : State := { s with rxIn := rxs, draws := m, trace := s.trace ++ [.rxRead 4 s.cfg.tResp a] }
    ((∃ bs, a = .ok bs ∧ bs.length = 4 ∧ readResponse k s = k { u with resp := respOf bs }) ∨
     (a = .timedOut ∧ readResponse k s = fatal s.ph .timeout u) ∨
     (a = .error ∧ readResponse k s = fatal s.ph .io u)) := by
  obtain ⟨a, rxs, m, hr, hl⟩ := rxRead_spec Config.respLen s.cfg.tResp s
  refine ⟨rxs, m, a, ?_⟩
  cases a with
  | ok bs => exact .inl ⟨bs, rfl, hl bs rfl, by simp only [readResponse, hr]; rfl⟩
  | timedOut => exact .inr (.inl ⟨rfl, by simp only [readResponse, hr]; rfl⟩)
  | error => exact .inr (.inr ⟨rfl, by simp only [readResponse, hr]; rfl⟩)

/-! ### The synchronizer -/

/-- Everything the synchronizer's loop can do: `j` attempts, then success or one of the two fatal conditions. -/
theorem syncLoop_spec : ∀ (k : Nat) (s : State), ∃ j out txs rxs n l,
    let u : State := { s with
      att := s.att + j, tx := s.tx ++ out, txIn := txs, rxIn := rxs, draws := n, trace := s.trace ++ l }
    j ≤ k ∧ Event.release ∉ l ∧ (writesOk l → out = List.replicate j 0x7F) ∧
    (syncLoop k s = u.goto .getverCmd ∧ l.countP isTxWrite = j ∧ l.countP isRxRead = j ∨
      ∃ c, (c = .io ∨ c = .syncExhausted) ∧ syncLoop k s = fatal .sync c u)
  | 0, s => ⟨0, [], s.txIn, s.rxIn, s.draws, [], by simp [syncLoop]⟩
  | k + 1, s => by
    obtain ⟨ok, txs, n, out, hw, hpre, hok⟩ := txWrite_spec [Config.syncByte] { s with att := s.att + 1 }
    cases ok with
    | false =>
      refine ⟨1, out, txs, s.rxIn, n, [.txWrite [Config.syncByte] false], by omega, by simp, ?_, .inr ⟨.io, .inl rfl, ?_⟩⟩
      · intro h; exact absurd (List.mem_singleton.2 rfl) (h _)
      · simp [syncLoop, hw]
    | true =>
      obtain ⟨a, rxs, m, hr, -⟩ := rxRead_spec 1 s.cfg.tSync { s with
        att := s.att + 1, txIn := txs, draws := n, tx := s.tx ++ out,
        trace := s.trace ++ [.txWrite [Config.syncByte] true] }
      obtain ⟨v, hv'⟩ : ∃ v : State, v = { s with
          att := s.att + 1, tx := s.tx ++ [0x7F], txIn := txs, rxIn := rxs, draws := m,
          trace := s.trace ++ [.txWrite [0x7F] true, .rxRead 1 s.cfg.tSync a] } := ⟨_, rfl⟩
      have hgo : ∃ j out txs rxs n l,
          let u : State := { s with
            att := s.att + j, tx := s.tx ++ out, txIn := txs, rxIn := rxs, draws := n, trace := s.trace ++ l }
          j ≤ k + 1 ∧ Event.release ∉ l ∧ (writesOk l → out = List.replicate j 0x7F) ∧
          (syncLoop k v = u.goto .getverCmd ∧ l.countP isTxWrite = j ∧ l.countP isRxRead = j ∨
            ∃ c, (c = .io ∨ c = .syncExhausted) ∧ syncLoop k v = fatal .sync c u) := by
        obtain ⟨j, out', txs', rxs', n', l, hj, hl, ho, hres⟩ := syncLoop_spec k v
        refine ⟨j + 1, 0x7F :: out', txs', rxs', n', .txWrite [0x7F] true :: .rxRead 1 s.cfg.tSync a :: l,
          by omega, by simpa using hl, ?_, ?_⟩
        · intro h
          rw [ho fun bs hm => h bs (by simp [hm]), List.replicate_succ]
        · subst hv'
          have hcount : ∀ m, (Event.txWrite [0x7F] true :: .rxRead 1 s.cfg.tSync a :: m).countP isTxWrite =
              m.countP isTxWrite + 1 ∧ (Event.txWrite [0x7F] true :: .rxRead 1 s.cfg.tSync a :: m).countP isRxRead =
              m.countP isRxRead + 1 := fun m =>
            ⟨by rw [List.countP_cons, List.countP_cons]; rfl, by rw [List.countP_cons, List.countP_cons]; rfl⟩
          rw [(hcount l).1, (hcount l).2]
          simpa [Nat.add_assoc, Nat.add_comm 1 j] using hres
      have hone : ∀ w : State, (w = v.goto .getverCmd ∨ w = fatal .sync .io v) → ∃ j out txs rxs n l,
          let u : State := { s with
            att := s.att + j, tx := s.tx ++ out, txIn := txs, rxIn := rxs, draws := n, trace := s.trace ++ l }
          j ≤ k + 1 ∧ Event.release ∉ l ∧ (writesOk l → out = List.replicate j 0x7F) ∧
          (w = u.goto .getverCmd ∧ l.countP isTxWrite = j ∧ l.countP isRxRead = j ∨ ∃ c, (c = .io ∨ c = .syncExhausted) ∧ w = fatal .sync c u) := by
        intro w hw
        refine ⟨1, [0x7F], txs, rxs, m, _, by omega, ?_, fun _ => rfl,
          hw.imp (fun h => ⟨by rw [h, hv'], rfl, rfl⟩) fun h => ⟨.io, .inl rfl, by rw [h, hv']⟩⟩
        simp
      have hv2 : { s with
          att := s.att + 1, tx := s.tx ++ out, txIn := txs, rxIn := rxs, draws := m,
          trace := s.trace ++ [.txWrite [Config.syncByte] true] ++ [.rxRead 1 s.cfg.tSync a] } = v := by
        rw [hv', hok rfl]; simp [Config.syncByte]
      cases a with
      | ok bs =>
        simp only [syncLoop, hw, if_true, hr, hv2]
        split
        · exact hone _ (.inl rfl)
        · exact hgo
      | timedOut =>
        simp only [syncLoop, hw, if_true, hr, hv2]
        exact hgo
      | error =>
        simp only [syncLoop, hw, if_true, hr, hv2]
        split
        · exact hone _ (.inr rfl)
        · exact hgo

/-- Spent attempts only use themselves up. -/
theorem syncLoop_spent (ms : Nat) (fatalErr : Bool) (hms : ms ≠ 0) : ∀ (es : List RxEvent) (k : Nat) (s : State)
    (txs : List TxAnswer) (rxs : List RxEvent),
    s.cfg.tSync = ms → s.cfg.syncRxErrorFatal = fatalErr → es.all (spent fatalErr) = true →
    s.txIn = List.replicate es.length .ok ++ txs → s.rxIn = es ++ rxs →
    syncLoop (es.length + k) s = syncLoop k { s with
      att := s.att + es.length, tx := s.tx ++ List.replicate es.length 0x7F, txIn := txs, rxIn := rxs,
      trace := s.trace ++ es.flatMap (attempt ms) }
  | [], k, s, txs, rxs, _, _, _, ht, hr => by
    simp at ht hr; simp [← ht, ← hr]
  | e :: es, k, s, txs, rxs, hm, hf, hsp, ht, hr => by
    simp only [List.all_cons, Bool.and_eq_true] at hsp
    have h1 := txWrite_ok (s := { s with att := s.att + 1 }) (as := List.replicate es.length .ok ++ txs)
      [Config.syncByte] (by rw [ht]; rfl)
    have h2 := rxRead_one (t := ms) (e := e) (es := es ++ rxs) hms (s := { s with
      att := s.att + 1
      txIn := List.replicate es.length .ok ++ txs
      tx := s.tx ++ [Config.syncByte]
      trace := s.trace ++ [.txWrite [Config.syncByte] true] }) hr
    have ih := syncLoop_spent ms fatalErr hms es k { s with
      att := s.att + 1
      txIn := List.replicate es.length .ok ++ txs
      tx := s.tx ++ [Config.syncByte]
      rxIn := es ++ rxs
      trace := s.trace ++ [.txWrite [Config.syncByte] true] ++ [.rxRead 1 ms (answerOf e)] } txs rxs hm hf hsp.2 rfl rfl
    have hgo : syncLoop (es.length + k + 1) s = syncLoop (es.length + k) { s with
      att := s.att + 1
      txIn := List.replicate es.length .ok ++ txs
      tx := s.tx ++ [Config.syncByte]
      rxIn := es ++ rxs
      trace := s.trace ++ [.txWrite [Config.syncByte] true] ++ [.rxRead 1 ms (answerOf e)] } := by
      simp only [syncLoop, h1, if_true, hm, h2]
      cases e with
      | byte b =>
        have hb : ¬ ([b] = [Config.ackByte]) := by
          simp [spent] at hsp; intro hb; exact hsp.1 (by simpa [Config.ackByte] using hb)
        simp only [answerOf, hb, if_false]
      | timedOut => rfl
      | error =>
        have : fatalErr = false := by simpa [spent] using hsp.1
        subst this
        simp only [answerOf, hf]
        rfl
    rw [List.length_cons, Nat.add_right_comm, hgo, ih]
    congr 1
    simp [attempt, Nat.add_assoc, Nat.add_comm 1, List.replicate_succ, Config.syncByte]

/-- An attempt that reads the acknowledge ends the loop. -/
theorem syncLoop_acknowledged {ms : Nat} (hms : ms ≠ 0) {k : Nat} {s : State} {txs : List TxAnswer}
    {rxs : List RxEvent} (hm : s.cfg.tSync = ms) (ht : s.txIn = .ok :: txs) (hr : s.rxIn = .byte 0x79 :: rxs) :
    syncLoop (k + 1) s = { s with
      att := s.att + 1
      tx := s.tx ++ [0x7F]
      txIn := txs
      rxIn := rxs
      ph := .getverCmd
      trace := s.trace ++ attempt ms (.byte 0x79) } := by
    have h1 := txWrite_ok (s := { s with att := s.att + 1 }) (as := txs) [Config.syncByte] ht
    have h2 := rxRead_one (t := ms) (e := .byte 0x79) (es := rxs) hms (s := { s with
      att := s.att + 1
      txIn := txs
      tx := s.tx ++ [Config.syncByte]
      trace := s.trace ++ [.txWrite [Config.syncByte] true] }) hr
    simp only [syncLoop, h1, if_true, hm, h2, answerOf, Config.ackByte]
    simp [State.goto, attempt, answerOf, Config.syncByte]

/-! ### Reads behind a guard -/

theorem heldAddr_valid {s : State} (h : s.recValid = true) : heldAddr s = s.recAddr := if_pos h

theorem heldBytes_valid {s : State} (h : s.recValid = true) : heldBytes s = recordBytes s := if_pos h

theorem heldBytes_length (s : State) : (heldBytes s).length ≤ 64 := by
  simp only [heldBytes, recordBytes]
  split <;> simp

theorem openImage_idle {s : State} (image : Option (List Line)) (h : s.ph = .idle) :
    openImage image s = { s with img := image.getD s.img } := by simp [openImage, h]

theorem openImage_ignored {s : State} (image : Option (List Line)) (h : s.ph ≠ .idle) : openImage image s = s := by
  simp [openImage, h]

end Sys2Proof.Machine
end

