-- ==== Sys2Proof/Laws/PerInstr.lean ====
section
/-! SUPPORT. A statement made for every operation: the words the encoder gives have a length its format allows. -/

namespace Sys2Proof.Laws.EncodedLength

open Sys2Proof.Machine

/-- How many bytes (of a line, characters) a word of a format has (30_encoding.md R80, R94); a record line without its checksum
pair has at most 140 characters. -/
def fits : Option Format → Nat → Prop
  | some .u8, n => n = 1
  | some .cf, n => n = 2
  | some .af, n => n = 5
  | some .df, n => 2 ≤ n ∧ n ≤ 66
  | some .rb, n => n = 1
  | some .rs, n => n = 4
  | some .ln, n => n ≤ 140
  | none, _ => False

/-- A well-formed operation's words, where it has any, are as long as its format says. -/
def Statement (i : Instr) : Prop := i.wf = true → ∀ p bs, encode i = some (p, bs) → fits i.format bs.length

theorem hexOfAll_length (bs : List Byte) : (hexOfAll bs).length = 2 * bs.length := by
  induction bs with
  | nil => rfl
  | cons b bs ih => simp [hexOfAll, hexOf, ih]; omega

theorem sync : Statement .sync := by rintro - p bs ⟨⟩; simp [fits, Instr.format]

theorem getverCmd : Statement .getverCmd := by rintro - p bs ⟨⟩; simp [fits, Instr.format]

theorem getverResp : Statement .getverResp := by rintro - p bs ⟨⟩; simp [fits, Instr.format]

theorem getidCmd : Statement .getidCmd := by rintro - p bs ⟨⟩; simp [fits, Instr.format]

theorem getidResp : Statement .getidResp := by rintro - p bs ⟨⟩; simp [fits, Instr.format]

theorem rdresp : Statement .rdresp := by rintro - p bs ⟨⟩; simp [fits, Instr.format]

theorem wrmemCmd : Statement .wrmemCmd := by rintro - p bs ⟨⟩; simp [fits, Instr.format]

theorem wrmemAddr (a : Word) : Statement (.wrmemAddr a) := by rintro - p bs ⟨⟩; simp [fits, Instr.format, be32]

theorem wrmemData (d : List Byte) : Statement (.wrmemData d) := by
  rintro hw p bs ⟨⟩
  have := wf_wrmemData.1 hw
  simp [fits, Instr.format, dataPayload]; omega

theorem goCmd : Statement .goCmd := by rintro - p bs ⟨⟩; simp [fits, Instr.format]

theorem goAddr (e : Word) : Statement (.goAddr e) := by rintro - p bs ⟨⟩; simp [fits, Instr.format, be32]

theorem xchg (payload : List Byte) (t : ReplyTimeout) : Statement (.xchg payload t) := by
  rintro hw p bs ⟨⟩
  have := wf_xchg.1 hw
  cases t with
  | data => simp [fits, Instr.format]; omega
  | ctrl =>
  simp only [Instr.format, frame_length]
  split_ifs with h1 h4
  · simp [fits, h1]
  · simp [fits, h4]
  · simp only [fits]; omega

theorem ack : Statement .ack := by rintro - p bs ⟨⟩; simp [fits, Instr.format]

theorem nack (b : Byte) : Statement (.nack b) := by rintro - p bs ⟨⟩; simp [fits, Instr.format]

theorem blank : Statement .blank := by rintro - p bs ⟨⟩; simp [fits, Instr.format]

theorem skipTag : Statement .skipTag := by rintro - p bs ⟨⟩; simp [fits, Instr.format]

theorem skipHdr : Statement .skipHdr := by rintro - p bs ⟨⟩; simp [fits, Instr.format]

theorem skipLen : Statement .skipLen := by rintro - p bs ⟨⟩; simp [fits, Instr.format, hexOfAll, hexOf]

theorem skipData : Statement .skipData := by rintro - p bs ⟨⟩; simp [fits, Instr.format, hexOfAll, hexOf]

theorem record (a : Word) (d : List Byte) : Statement (.record a d) := by
  rintro hw p bs ⟨⟩
  have := wf_record.1 hw
  simp [fits, Instr.format, recordLine, hexOf, hexOfAll_length, be32]; omega

theorem start (img : Bool) : Statement (.start img) := by rintro - p bs ⟨⟩

theorem fetch : Statement .fetch := by rintro - p bs ⟨⟩

theorem decode : Statement .decode := by rintro - p bs ⟨⟩

theorem finish : Statement .finish := by rintro - p bs ⟨⟩

theorem fatal (step : Phase) (cls : FailClass) : Statement (.fatal step cls) := by rintro - p bs ⟨⟩

end Sys2Proof.Laws.EncodedLength
end

