-- ==== Sys2Proof/Laws/Step.lean ====
section
/-! SUPPORT. What each operation and one step can do, said once. -/

namespace Sys2Proof.Machine

open Sys2Proof.Safety

/-- The seven call sites of the exchange: five that move, the data frame, the Go address. -/
theorem exec_exchange {i : Instr} {p : List Byte} (h : exchangePayload i = some p) (s : State) :
    (∃ q, plainExchange i = some (p, q) ∧ exec i s = .next (exchange p .ctrl (fun u => u.goto q) s)) ∨
    (∃ d, i = .wrmemData d ∧ p = dataPayload d ∧
      exec i s = .next (exchange p .data (fun u => (latchEntry (memWrite d u)).goto .fetch) s)) ∨
    (∃ e, i = .goAddr e ∧ p = be32 e ∧ exec i s = .next (exchange p .ctrl finish s)) := by
  cases i <;> simp only [exchangePayload, Option.some.injEq, reduceCtorEq] at h
  case getverCmd => subst h; exact .inl ⟨.getverResp, rfl, rfl⟩
  case getidCmd => subst h; exact .inl ⟨.getidResp, rfl, rfl⟩
  case wrmemCmd => subst h; exact .inl ⟨.wrAddr, rfl, rfl⟩
  case wrmemAddr a => subst h; exact .inl ⟨.wrData, rfl, rfl⟩
  case goCmd => subst h; exact .inl ⟨.goAddr, rfl, rfl⟩
  case wrmemData d => subst h; exact .inr (.inl ⟨d, rfl, rfl, rfl⟩)
  case goAddr e => subst h; exact .inr (.inr ⟨e, rfl, rfl, rfl⟩)

/-- What follows an acknowledged data frame, written out. -/
theorem latch_write (d : List Byte) (u : State) : (latchEntry (memWrite d u)).goto .fetch = { u with
    wlog := u.wlog ++ [(heldAddr u, d)]
    entryAddr := if u.entryValid then u.entryAddr else heldAddr u
    entryValid := true
    ph := .fetch } := by
  simp only [latchEntry, memWrite, State.goto]
  split <;> simp_all [heldAddr]

/-- Everything one of the seven exchanges can do, whatever the answers: the exchange's own registers and what was sent, then
the operation's own effect on an acknowledge, the abort path on any other outcome. -/
theorem exec_exchange_cases {i : Instr} {p : List Byte} (hp : exchangePayload i = some p) (s : State) :
    ∃ k o out txs rxs n l,
      let u : State := { s with
        cks := k, outcomeValid := true, outcome := o, tx := s.tx ++ out, txIn := txs, rxIn := rxs, draws := n,
        trace := s.trace ++ l }
      Event.release ∉ l ∧ out <+: frame p ∧ (writesOk l → out = frame p) ∧
      (o = .acknowledged ∧ l.countP isTxWrite = 2 ∧ l.countP isRxRead = 1 ∧
        ((∃ q, plainExchange i = some (p, q) ∧ exec i s = .next (u.goto q)) ∨
         (∃ d, i = .wrmemData d ∧ p = dataPayload d ∧ exec i s = .next ((latchEntry (memWrite d u)).goto .fetch)) ∨
         (∃ e, i = .goAddr e ∧ p = be32 e ∧ exec i s = .next (finished u))) ∨
       ∃ c, classOf o = some c ∧ exec i s = .next (aborted s.ph c (kindOf c) u)) := by
  have hx : ∀ (t : ReplyTimeout) (next : State → State), exec i s = .next (exchange p t next s) →
      ∃ k o out txs rxs n l,
        let u : State := { s with
          cks := k, outcomeValid := true, outcome := o, tx := s.tx ++ out, txIn := txs, rxIn := rxs, draws := n,
          trace := s.trace ++ l }
        Event.release ∉ l ∧ out <+: frame p ∧ (writesOk l → out = frame p) ∧
        (o = .acknowledged ∧ l.countP isTxWrite = 2 ∧ l.countP isRxRead = 1 ∧ exec i s = .next (next u) ∨
         ∃ c, classOf o = some c ∧ exec i s = .next (aborted s.ph c (kindOf c) u)) := by
    intro t next he
    obtain ⟨k, o, out, txs, rxs, n, l, hx, hl, hpre, hok, hcount, -⟩ := xchg_spec p t s
    refine ⟨k, o, out, txs, rxs, n, l, hl, hpre, hok, ?_⟩
    rw [he, exchange, hx]
    cases o with
    | acknowledged => exact .inl ⟨rfl, (hcount rfl).1, (hcount rfl).2, by rw [check_acknowledged next rfl]⟩
    | negativeAcknowledged => exact .inr ⟨.nack, rfl, by rw [check_failed next (c := .nack) rfl, fatal_eq]⟩
    | timedOut => exact .inr ⟨.timeout, rfl, by rw [check_failed next (c := .timeout) rfl, fatal_eq]⟩
    | ioFailure => exact .inr ⟨.io, rfl, by rw [check_failed next (c := .io) rfl, fatal_eq]⟩
  rcases exec_exchange hp s with ⟨q, hq, he⟩ | ⟨d, hd, hpd, he⟩ | ⟨e, hi, hpe, he⟩ <;>
    obtain ⟨k, o, out, txs, rxs, n, l, hl, hpre, hok, hr⟩ := hx _ _ he <;>
    refine ⟨k, o, out, txs, rxs, n, l, hl, hpre, hok, hr.imp (fun ⟨ho, hn, hm, hr⟩ => ⟨ho, hn, hm, ?_⟩) id⟩
  · exact .inl ⟨q, hq, hr⟩
  · exact .inr (.inl ⟨d, hd, hpd, hr⟩)
  · exact .inr (.inr ⟨e, hi, hpe, by rw [hr, finish_eq]⟩)

/-- Everything one of the three response reads can do. -/
theorem exec_response_cases {i : Instr} (hi : i = .getverResp ∨ i = .getidResp ∨ i = .rdresp) (s : State) :
    ∃ rxs m a,
      let u : State := { s with rxIn := rxs, draws := m, trace := s.trace ++ [.rxRead 4 s.cfg.tResp a] }
      (∃ bs, a = .ok bs ∧ bs.length = 4 ∧
        (i = .getverResp ∧ exec i s = .next ((latchVersion { u with resp := respOf bs }).goto .getidCmd) ∨
         i = .getidResp ∧ exec i s = .next (afterIdentify (latchProductId { u with resp := respOf bs })) ∨
         i = .rdresp ∧ exec i s = .next { u with resp := respOf bs })) ∨
      exec i s = .next (aborted s.ph .timeout .protocol u) ∨
      exec i s = .next (aborted s.ph .io .link u) := by
  rcases hi with rfl | rfl | rfl
  · obtain ⟨rxs, m, a, h⟩ := readResponse_spec (fun u => (latchVersion u).goto .getidCmd) s
    refine ⟨rxs, m, a, ?_⟩
    rcases h with ⟨bs, rfl, hl, h⟩ | ⟨-, h⟩ | ⟨-, h⟩
    · exact .inl ⟨bs, rfl, hl, .inl ⟨rfl, by rw [exec, execGetverResp, h]⟩⟩
    · exact .inr (.inl (by rw [exec, execGetverResp, h, fatal_eq]; rfl))
    · exact .inr (.inr (by rw [exec, execGetverResp, h, fatal_eq]; rfl))
  · obtain ⟨rxs, m, a, h⟩ := readResponse_spec (fun u => afterIdentify (latchProductId u)) s
    refine ⟨rxs, m, a, ?_⟩
    rcases h with ⟨bs, rfl, hl, h⟩ | ⟨-, h⟩ | ⟨-, h⟩
    · exact .inl ⟨bs, rfl, hl, .inr (.inl ⟨rfl, by rw [exec, execGetidResp, h]⟩)⟩
    · exact .inr (.inl (by rw [exec, execGetidResp, h, fatal_eq]; rfl))
    · exact .inr (.inr (by rw [exec, execGetidResp, h, fatal_eq]; rfl))
  · obtain ⟨rxs, m, a, h⟩ := readResponse_spec (fun u => u) s
    refine ⟨rxs, m, a, ?_⟩
    rcases h with ⟨bs, rfl, hl, h⟩ | ⟨-, h⟩ | ⟨-, h⟩
    · exact .inl ⟨bs, rfl, hl, .inr (.inr ⟨rfl, by rw [exec, execRdresp, h]⟩)⟩
    · exact .inr (.inl (by rw [exec, execRdresp, h, fatal_eq]; rfl))
    · exact .inr (.inr (by rw [exec, execRdresp, h, fatal_eq]; rfl))

/-- Everything `SYNC` can do. -/
theorem exec_sync_cases (s : State) : ∃ j out txs rxs n l,
    let u : State := { s with
      att := j, tx := s.tx ++ out, txIn := txs, rxIn := rxs, draws := n, trace := s.trace ++ l }
    j ≤ s.cfg.maxAttempts ∧ Event.release ∉ l ∧ (writesOk l → out = List.replicate j 0x7F) ∧
    (exec .sync s = .next (u.goto .getverCmd) ∧ l.countP isTxWrite = j ∧ l.countP isRxRead = j ∨
      ∃ c, (c = .io ∨ c = .syncExhausted) ∧ exec .sync s = .next (aborted .sync c .link u)) := by
  obtain ⟨j, out, txs, rxs, n, l, hj, hl, ho, h⟩ := syncLoop_spec s.cfg.maxAttempts { s with att := 0 }
  refine ⟨j, out, txs, rxs, n, l, hj, hl, ho, ?_⟩
  rw [exec, execSync]
  rcases h with ⟨h, hn, hm⟩ | ⟨c, hc, h⟩
  · exact .inl ⟨by rw [h]; simp [State.goto], hn, hm⟩
  · refine .inr ⟨c, hc, ?_⟩
    rw [h, fatal_eq]
    rcases hc with rfl | rfl <;> simp [aborted, kindOf]

/-- Everything a fetch can do. -/
theorem exec_fetch_cases (s : State) :
    s.img = [] ∧ exec .fetch s = .next ((s.log (.imgNext none)).goto .goCmd) ∨
    ∃ cs rest, s.img = cs :: rest ∧
      (s.cfg.lineMax < cs.length ∧ exec .fetch s = .refused .lineTooLong ∨
       cs.length ≤ s.cfg.lineMax ∧
         exec .fetch s = .next (runVerdict (decodeLine s.cfg.hexLower cs) (latchLine cs rest s))) := by
  rw [exec, execFetch]
  cases h : s.img with
  | nil => exact .inl ⟨rfl, rfl⟩
  | cons cs rest =>
    refine .inr ⟨cs, rest, rfl, ?_⟩
    have hv : lineVerdict (latchLine cs rest s) = decodeLine s.cfg.hexLower cs := by
      simp [lineVerdict, lineText, latchLine]
    by_cases hl : cs.length ≤ s.cfg.lineMax
    · exact .inr ⟨hl, by simp only [hl, if_true, hv]⟩
    · exact .inl ⟨by omega, by simp only [hl, if_false]⟩

/-- Everything a `START` at the boundary can do. -/
theorem step_start {s : State} {image : Option (List Line)} {cs : List Ctl} (h : s.ctl = .start image :: cs) :
    (s.ph = .idle → step s = .next { s with
      ctl := cs, img := image.getD s.img, imgPresent := image.isSome, held := true, ln := 0, ph := .sync }) ∧
    (s.ph ≠ .idle → step s = .next { s with ctl := cs }) := by
  rw [step, h]
  refine ⟨fun hp => ?_, fun hp => ?_⟩
  · show exec _ (openImage image { s with ctl := cs }) = _
    rw [openImage_idle (s := { s with ctl := cs }) image hp]
    simp only [exec, execStart, hp]
  · show exec _ (openImage image { s with ctl := cs }) = _
    rw [openImage_ignored (s := { s with ctl := cs }) image hp]
    simp only [exec, execStart]

/-- Everything a step can do when no operation is called by itself. -/
theorem step_cases {s t : State} (hc : s.call = none) (h : step s = .next t) :
    (∃ cs, s.ctl = .reset :: cs ∧ inSession s.ph = false ∧ t = resetRegs { s with ctl := cs }) ∨
    (∃ image cs, s.ctl = .start image :: cs ∧
      (s.ph = .idle ∧ t = { s with
          ctl := cs, img := image.getD s.img, imgPresent := image.isSome, held := true, ln := 0, ph := .sync } ∨
       s.ph ≠ .idle ∧ t = { s with ctl := cs })) ∨
    (∃ cs, (s.ctl = .quiet :: cs ∨ s.ctl = [] ∧ cs = []) ∧
      (select s = .rest ∧ t = { s with ctl := cs } ∨
       ∃ i, select s = .op i ∧ exec i { s with ctl := cs } = .next t)) := by
  have hrun : ∀ cs, runSelected { s with ctl := cs } = .next t →
      select s = .rest ∧ t = { s with ctl := cs } ∨ ∃ i, select s = .op i ∧ exec i { s with ctl := cs } = .next t := by
    intro cs hr
    have hs : select { s with ctl := cs } = select s := rfl
    have hc' : ({ s with ctl := cs } : State).call = none := hc
    generalize ({ s with ctl := cs } : State) = u at *
    simp only [runSelected, hc', hs] at hr
    cases hsel : select s with
    | op i => rw [hsel] at hr; exact .inr ⟨i, rfl, hr⟩
    | rest => rw [hsel] at hr; cases hr; exact .inl ⟨rfl, rfl⟩
  have h' := h
  cases hq : s.ctl with
  | nil =>
    rw [step, hq] at h
    have hu : s = { s with ctl := [] } := by rw [← hq]
    rw [hu] at h
    exact .inr (.inr ⟨[], .inr ⟨rfl, rfl⟩, hrun [] h⟩)
  | cons x cs =>
    rw [step, hq] at h
    cases x with
    | quiet => exact .inr (.inr ⟨cs, .inl rfl, hrun cs h⟩)
    | start image =>
      refine .inr (.inl ⟨image, cs, rfl, ?_⟩)
      by_cases hp : s.ph = .idle
      · exact .inl ⟨hp, (Host.Outcome.next.inj ((step_start hq).1 hp |>.symm.trans h')).symm⟩
      · exact .inr ⟨hp, (Host.Outcome.next.inj ((step_start hq).2 hp |>.symm.trans h')).symm⟩
    | reset =>
      simp only [runReset] at h
      cases hp : inSession s.ph with
      | true => simp [hp] at h
      | false => simp [hp] at h; exact .inl ⟨cs, rfl, rfl, h.symm⟩

end Sys2Proof.Machine
end

