-- ==== Sys2Proof/Tests/Slice0.lean ====
section
/-! SUPPORT. The model's own tests: ill-formed operations refused, words written out from the spec decoded, one step at a time
against the examples of the spec, and a witness for the hypotheses of each statement. -/

namespace Sys2Proof.Tests

open Sys2Proof.Machine Sys2Proof.Safety

/-! ### Well-formedness: one ill-formed term for each check, and the boundary beside it -/

theorem test_wf_data_of_64_bytes : (Instr.wrmemData (List.replicate 64 0xFF)).wf = true := by decide
theorem test_wf_data_of_65_bytes_refused : (Instr.wrmemData (List.replicate 65 0xFF)).wf = false := by decide
theorem test_wf_payload_of_65_bytes : (Instr.xchg (List.replicate 65 0) .data).wf = true := by decide
theorem test_wf_empty_payload_refused : (Instr.xchg [] .ctrl).wf = false := by decide
theorem test_wf_payload_of_66_bytes_refused : (Instr.xchg (List.replicate 66 0) .data).wf = false := by decide
theorem test_wf_nack_by_the_acknowledge_byte_refused : (Instr.nack 0x79).wf = false := by decide
theorem test_wf_record_of_65_bytes_refused : (Instr.record 0 (List.replicate 65 0)).wf = false := by decide
theorem test_wf_fatal_in_fetch_refused : (Instr.fatal .fetch .io).wf = false := by decide
theorem test_wf_fatal_nack_in_sync_refused : (Instr.fatal .sync .nack).wf = false := by decide
theorem test_wf_fatal_nack_of_a_block_refused : (Instr.fatal .getverResp .nack).wf = false := by decide

/-! ### Decoding: words written out from the spec -/

/-- The characters of a text. -/
def text (s : String) : Line := s.toList.map fun c => BitVec.ofNat 8 c.toNat

/-- 30_encoding.md R81: `0111 1111`. -/
theorem test_decode_sync : decode true .unit [0b01111111] = .ok .sync := by decide
/-- R82: the code, then its complement. -/
theorem test_decode_getver : decode true .unit [0b00000001, 0b11111110] = .ok .getverCmd := by decide
theorem test_decode_getid : decode true .unit [0b00000010, 0b11111101] = .ok .getidCmd := by decide
theorem test_decode_wrmem : decode true .unit [0b00110001, 0b11001110] = .ok .wrmemCmd := by decide
theorem test_decode_go : decode true .unit [0b00100001, 0b11011110] = .ok .goCmd := by decide
/-- The checksum of a command is not its XOR-fold (41_exchange.md R122). -/
theorem test_decode_command_checksum : decode true .unit [0x31, 0x31] = .rejected .badChecksum := by decide
/-- No other command (30_encoding.md R98). -/
theorem test_decode_unknown_command : decode true .unit [0x43, 0xBC] = .rejected .unknownUnit := by decide
/-- 95_test_vectors.md 3.3. -/
theorem test_decode_address : decode true .wrAddr [0x80, 0x00, 0x00, 0x01, 0x81] = .ok (.wrmemAddr 0x80000001) := by
  decide
theorem test_decode_entry : decode true .goAddr [0x00, 0x00, 0x20, 0x00, 0x20] = .ok (.goAddr 0x00002000) := by decide
theorem test_decode_address_checksum : decode true .wrAddr [0x80, 0x00, 0x00, 0x01, 0x80] = .rejected .badChecksum := by
  decide
/-- 95_test_vectors.md 3.4. -/
theorem test_decode_data : decode true .wrData [0x00, 0x55, 0x55] = .ok (.wrmemData [0x55]) := by decide
theorem test_decode_empty_data : decode true .wrData [0xFF, 0x00] = .ok (.wrmemData []) := by decide
theorem test_decode_data_of_64 : decode true .wrData (0x3F :: List.replicate 64 0xFF ++ [0x3F]) =
    .ok (.wrmemData (List.replicate 64 0xFF)) := by decide
theorem test_decode_data_length_byte : decode true .wrData [0x02, 0x55, 0x57] = .rejected .badLengthByte := by decide
theorem test_decode_exchange : decode true (.exchange .data) [0x03, 0x10, 0x20, 0x30, 0x40, 0x43] =
    .ok (.xchg [0x03, 0x10, 0x20, 0x30, 0x40] .data) := by decide
/-- 30_encoding.md R88, R92. -/
theorem test_decode_ack : decode true .reply [0b01111001] = .ok .ack := by decide
theorem test_decode_nack : decode true .reply [0x78] = .ok (.nack 0x78) := by decide
/-- R89: no byte of a block is checked. -/
theorem test_decode_blocks : decode true .verBlock [0x22, 0xFF, 0xFF, 0x00] = .ok .getverResp ∧
    decode true .idBlock [0xAA, 0x04, 0x13, 0x55] = .ok .getidResp ∧
    decode true .block [1, 2, 3, 4] = .ok .rdresp ∧ decode true .block [1, 2, 3] = .rejected .badLength := by decide

/-- 95_test_vectors.md section 4: D1, D14, D16, D13. -/
theorem test_decode_blank_and_tag : decode true .line [] = .ok .blank ∧ decode true .line (text "  ") = .ok .skipTag ∧
    decode true .line (text "s30900002000DEADBEEF9E") = .ok .skipTag ∧ decode true .line (text "S") = .ok .skipTag := by
  decide
/-- D18, D20, D21, D22, D24. -/
theorem test_decode_header : decode true .line (text "S3") = .ok .skipHdr ∧
    decode true .line (text "S3050000200") = .ok .skipHdr ∧ decode true .line (text "S304000020") = .ok .skipHdr ∧
    decode true .line (text "S3090000G000DEADBEEF9E") = .ok .skipHdr ∧
    decode true .line (text "S3+900002000DEADBEEF9E") = .ok .skipHdr := by decide
/-- D9, D12. -/
theorem test_decode_length : decode true .line (text "S30400002000AB") = .ok .skipLen ∧
    decode true .line (text "S3FF00002000") = .ok .skipLen ∧ decode true .line (text "S34600002000") = .ok .skipLen := by
  decide
/-- D25, D26, D27, D29. -/
theorem test_decode_data_field : decode true .line (text "S30900002000DEADBE") = .ok .skipData ∧
    decode true .line (text "S30900002000DEADBEXF9E") = .ok .skipData ∧
    decode true .line (text "S30600002000D") = .ok .skipData ∧
    decode true .line (text "S30B00002000DEADBEEF9E") = .ok .skipData := by decide
/-- D2, D4 (and the same with `HEX_LOWER = false`), D5, D7, D28, D30. -/
theorem test_decode_record :
    decode true .line (text "S30900002000DEADBEEF9E") = .ok (.record 0x2000 [0xDE, 0xAD, 0xBE, 0xEF]) ∧
    decode true .line (text "S30900002000deadbeef9e") = .ok (.record 0x2000 [0xDE, 0xAD, 0xBE, 0xEF]) ∧
    decode false .line (text "S30900002000deadbeef9e") = .ok .skipData ∧
    decode true .line (text "S30900002000DEADBEEFzz garbage") = .ok (.record 0x2000 [0xDE, 0xAD, 0xBE, 0xEF]) := by decide
theorem test_decode_record_edges : decode true .line (text "S30500002000") = .ok (.record 0x2000 []) ∧
    decode true .line (text "S30A00002000DEADBEEF9E") = .ok (.record 0x2000 [0xDE, 0xAD, 0xBE, 0xEF, 0x9E]) ∧
    decode true .line (text "S309FFFFFFFFDEADBEEF") = .ok (.record 0xFFFFFFFF [0xDE, 0xAD, 0xBE, 0xEF]) := by decide

/-- The table's numbering (log 1): bytes in the order they are sent, the first the most significant. -/
theorem test_table_words : decodeTableWord 8 0x7F = some .sync ∧ decodeTableWord 8 0x79 = some .ack ∧
    decodeTableWord 8 0 = some (.nack 0) ∧ decodeTableWord 16 0x01FE = some .getverCmd ∧
    decodeTableWord 16 0x21DE = some .goCmd ∧ decodeTableWord 16 0xFF00 = some (.wrmemData []) ∧
    decodeTableWord 40 0x1234567808 = some (.wrmemAddr 0x12345678) ∧ decodeTableWord 7 0 = none := by decide

/-! ### One step at a time -/

/-- Reset, in phase `p` of a session, with answers to come: writes that succeed, and `rx` on the receive side. -/
def at' (p : Phase) (rx : List RxEvent) : State :=
  { State.reset with ph := p, held := true, imgPresent := true, txIn := List.replicate 4 .ok, rxIn := rx }

/-- Whether an operation gives a next state of which `f` holds. -/
def gives (i : Instr) (s : State) (f : State → Bool) : Bool :=
  match exec i s with
  | .next t => f t
  | .fault _ => false
  | .refused _ => false

/-- The numbers a host reads for a failure: step, class, kind, exit status (60_exceptions.md R191, R192). -/
def failure (t : State) : Nat × Nat × Nat × Nat :=
  ((failStepCode t.failStep).toNat, (failClassCode t.failClass).toNat, (errKindCode t.errKind).toNat,
    (exitCode t.exitStatus).toNat)

/-- 95_test_vectors.md S5. -/
theorem test_sync_drops_other_bytes : gives .sync (at' .sync [.byte 0x1F, .byte 0x00, .byte 0x7F, .byte 0x79, .byte 1])
    (fun t => t.att = 4 ∧ t.ph = .getverCmd ∧ t.tx = [0x7F, 0x7F, 0x7F, 0x7F] ∧ t.rxIn = [.byte 1]) = true := by decide
/-- S8. -/
theorem test_sync_write_failure :
    gives .sync { at' .sync [.timedOut, .timedOut] with txIn := [.ok, .ok, .error 7] }
      (fun t => t.att = 3 ∧ t.ph = .fail ∧ failure t = (1, 3, 1, 2) ∧ t.tx = [0x7F, 0x7F]) = true := by decide

/-- 43_orchestrator.md R162; 95_test_vectors.md section 6, first row. -/
theorem test_getver_cmd : gives .getverCmd (at' .getverCmd [.byte 0x79])
    (fun t => t.tx = [0x01, 0xFE] ∧ t.ph = .getverResp ∧ t.cks = 0xFE) = true := by decide
theorem test_getver_cmd_refused : gives .getverCmd (at' .getverCmd [.byte 0x1F])
    (fun t => t.ph = .fail ∧ failure t = (2, 1, 2, 2) ∧ t.held = false) = true := by decide

/-- I1, I4: the three bytes are gone. -/
theorem test_getver_resp : gives .getverResp (at' .getverResp [.byte 0x31, .byte 0, .byte 0, .byte 0x79])
    (fun t => t.ver = 0x31 ∧ t.verValid = true ∧ t.ph = .getidCmd ∧ versionMajor t.ver = 3 ∧ versionMinor t.ver = 1) =
      true := by decide
theorem test_getver_resp_short : gives .getverResp (at' .getverResp [.byte 0x31, .byte 0, .byte 0, .timedOut])
    (fun t => t.ph = .fail ∧ failure t = (3, 2, 2, 2) ∧ t.rxIn = [] ∧ t.verValid = false) = true := by decide

/-- R165; section 6, fourth row. -/
theorem test_getid_cmd : gives .getidCmd (at' .getidCmd [.byte 0x79])
    (fun t => t.tx = [0x02, 0xFD] ∧ t.ph = .getidResp) = true := by decide
theorem test_getid_cmd_error : gives .getidCmd (at' .getidCmd [.error])
    (fun t => t.ph = .fail ∧ failure t = (4, 3, 1, 2)) = true := by decide

/-- I2 with an image; P1 without. -/
theorem test_getid_resp : gives .getidResp (at' .getidResp [.byte 0xAA, .byte 0x04, .byte 0x13, .byte 0x55])
    (fun t => t.pid = 0x0413 ∧ t.pidValid = true ∧ t.ph = .fetch) = true := by decide
theorem test_getid_resp_without_image :
    gives .getidResp { at' .getidResp [.byte 1, .byte 4, .byte 0x10, .byte 0x79] with imgPresent := false }
      (fun t => t.pid = 0x0410 ∧ t.ph = .done ∧ t.exitStatus = .success ∧ t.held = false) = true := by decide

/-- R163's example; I6. -/
theorem test_rdresp : gives .rdresp (at' .getverResp [.byte 0x31, .byte 0x00, .byte 0x00, .byte 0x79, .byte 0x79])
    (fun t => t.resp = #v[0x31, 0x00, 0x00, 0x79] ∧ t.rxIn = [.byte 0x79] ∧ t.tx = []) = true := by decide
theorem test_rdresp_error : gives .rdresp (at' .getidResp [.error])
    (fun t => t.ph = .fail ∧ failure t = (5, 3, 1, 2)) = true := by decide

/-- R170; section 6, sixth row. -/
theorem test_wrmem_cmd : gives .wrmemCmd (at' .wrCmd [.byte 0x79]) (fun t => t.tx = [0x31, 0xCE] ∧ t.ph = .wrAddr) =
    true := by decide
theorem test_wrmem_cmd_refused : gives .wrmemCmd (at' .wrCmd [.byte 0x00])
    (fun t => t.ph = .fail ∧ failure t = (7, 1, 2, 2)) = true := by decide

/-- R171's example; P3. -/
theorem test_wrmem_addr : gives (.wrmemAddr 0x00002000) (at' .wrAddr [.byte 0x79])
    (fun t => t.tx = [0x00, 0x00, 0x20, 0x00, 0x20] ∧ t.ph = .wrData) = true := by decide
theorem test_wrmem_addr_refused : gives (.wrmemAddr 0x20000100) (at' .wrAddr [.byte 0x1F])
    (fun t => t.tx = [0x20, 0x00, 0x01, 0x00, 0x21] ∧ failure t = (8, 1, 2, 2) ∧ t.entryValid = false) = true := by decide

/-- R172's example, with the write log and the latch; P5, the empty record. -/
theorem test_wrmem_data : gives (.wrmemData [0xDE, 0xAD, 0xBE, 0xEF]) { at' .wrData [.byte 0x79] with
      recValid := true, recAddr := 0x2000 }
    (fun t => t.tx = [0x03, 0xDE, 0xAD, 0xBE, 0xEF, 0x21] ∧ t.ph = .fetch ∧ t.entryValid = true ∧ t.entryAddr = 0x2000 ∧
      t.wlog = [(0x2000, [0xDE, 0xAD, 0xBE, 0xEF])] ∧ t.trace.getLast? = some (.rxRead 1 500 (.ok [0x79]))) = true := by
  decide
theorem test_wrmem_data_empty : gives (.wrmemData []) { at' .wrData [.timedOut] with recValid := true }
    (fun t => t.tx = [0xFF, 0x00] ∧ t.cks = 0 ∧ failure t = (9, 2, 2, 2) ∧ t.wlog = [] ∧ t.entryValid = false) = true := by
  decide

/-- R176; section 6. -/
theorem test_go_cmd : gives .goCmd (at' .goCmd [.byte 0x79]) (fun t => t.tx = [0x21, 0xDE] ∧ t.ph = .goAddr) = true := by
  decide
theorem test_go_cmd_timeout : gives .goCmd (at' .goCmd [.timedOut]) (fun t => failure t = (10, 2, 2, 2)) = true := by decide

/-- R177's example; section 6, last row. -/
theorem test_go_addr : gives (.goAddr 0x20000000) (at' .goAddr [.byte 0x79])
    (fun t => t.tx = [0x20, 0x00, 0x00, 0x00, 0x20] ∧ t.ph = .done ∧ t.exitStatus = .success ∧ t.held = false) = true := by
  decide
theorem test_go_addr_refused : gives (.goAddr 0x00002000) (at' .goAddr [.byte 0x1F])
    (fun t => failure t = (11, 1, 2, 2)) = true := by decide

/-- X7: a checksum write that failed is not seen; X6: a payload write that failed ends the exchange. -/
theorem test_xchg_checksum_write_unseen :
    gives (.xchg [0x31] .ctrl) { at' .wrCmd [.byte 0x79] with txIn := [.ok, .error 0] }
      (fun t => t.outcome = .acknowledged ∧ t.outcomeValid = true ∧ t.cks = 0xCE ∧ t.tx = [0x31] ∧ t.ph = .wrCmd) = true := by
  decide
theorem test_xchg_payload_write_failure :
    gives (.xchg [0x31] .ctrl) { at' .wrCmd [.byte 0x79] with txIn := [.error 0], cks := 0x55 }
      (fun t => t.outcome = .ioFailure ∧ t.cks = 0x55 ∧ t.tx = [] ∧ t.rxIn = [.byte 0x79]) = true := by decide

/-- 41_exchange.md R126; 40_synchronizer.md R115. -/
theorem test_ack : gives .ack (at' .wrCmd []) (fun t => t.outcome = .acknowledged ∧ t.ph = .wrCmd) = true := by decide
theorem test_ack_in_sync : gives .ack (at' .sync []) (fun t => t.ph = .getverCmd ∧ t.outcomeValid = false) = true := by decide
/-- R126 (`0x7A`); 40_synchronizer.md R113. -/
theorem test_nack : gives (.nack 0x7A) (at' .wrCmd []) (fun t => t.outcome = .negativeAcknowledged) = true := by decide
theorem test_nack_in_sync : gives (.nack 0x1F) (at' .sync []) (fun t => t = at' .sync []) = true := by decide

/-- A state in the record loop at line 3, a record still in the registers. -/
def inLoop : State := { at' .fetch [] with ln := 3, recValid := true, recAddr := 0x2000 }

/-- D1. -/
theorem test_blank : gives .blank inLoop (fun t => t.recValid = false ∧ t.trace = [] ∧ t.ph = .fetch) = true := by decide
/-- 42_record_decoder.md R151: the four reason codes. -/
theorem test_skip_tag : gives .skipTag inLoop
    (fun t => t.recValid = false ∧ t.trace = [.diagSkip .tag 3] ∧ t.ph = .fetch) = true := by decide
theorem test_skip_hdr : gives .skipHdr inLoop (fun t => t.recValid = false ∧ t.trace = [.diagSkip .hdr 3]) = true := by decide
theorem test_skip_len : gives .skipLen inLoop (fun t => t.recValid = false ∧ t.trace = [.diagSkip .len 3]) = true := by decide
theorem test_skip_data : gives .skipData inLoop (fun t => t.recValid = false ∧ t.trace = [.diagSkip .data 3]) = true := by
  decide
theorem test_skip_codes : skipReasonCode .tag = 1 ∧ skipReasonCode .hdr = 2 ∧ skipReasonCode .len = 3 ∧
    skipReasonCode .data = 4 := by decide
/-- R150, D6; D11's 64 bytes. -/
theorem test_record : gives (.record 0x1000 [0x00, 0x11]) inLoop
    (fun t => t.recValid = true ∧ t.recAddr = 0x1000 ∧ t.recLen = 2 ∧ t.lenField = 7 ∧ recordBytes t = [0x00, 0x11] ∧
      t.ph = .wrCmd) = true := by decide
theorem test_record_of_64 : gives (.record 0x20000000 (List.replicate 64 0xFF)) inLoop
    (fun t => t.recLen = 64 ∧ t.lenField = 0x45 ∧ t.recData.toList = List.replicate 64 0xFF) = true := by decide

/-- R168; ignored in `FAIL`. -/
theorem test_start : gives (.start true) State.reset (fun t => t.ph = .sync ∧ t.imgPresent = true ∧ t.held = true) = true := by
  decide
theorem test_start_ignored : gives (.start true) (at' .fail []) (fun t => t = at' .fail []) = true := by decide

/-- P2, line 2; `eof`. -/
theorem test_fetch_skip : gives .fetch { at' .fetch [] with ln := 1, img := [text "S30900002000DEADBEXF9E", []] }
    (fun t => t.ln = 2 ∧ t.img = [[]] ∧ t.lbLen = 22 ∧ t.ph = .fetch ∧
      t.trace.getLast? = some (.diagSkip .data 2)) = true := by decide
theorem test_fetch_eof : gives .fetch (at' .fetch []) (fun t => t.ph = .goCmd ∧ t.ln = 0 ∧ t.trace = [.imgNext none]) =
    true := by decide
/-- 20_memory.md R59, U4. -/
theorem test_fetch_overlong_refused :
    exec .fetch { at' .fetch [] with cfg := { Cfg.default with lineMax := 2 }, img := [text "S30"] } =
      .refused .lineTooLong := rfl

/-- D28; D26. -/
theorem test_decode_op : gives .decode { at' .fetch [] with ln := 1, lb := text "S30A00002000DEADBEEF9E", lbLen := 22 }
    (fun t => t.recValid = true ∧ t.recLen = 5 ∧ recordBytes t = [0xDE, 0xAD, 0xBE, 0xEF, 0x9E] ∧ t.ph = .fetch ∧
      t.trace = []) = true := by decide
theorem test_decode_op_skip : gives .decode { inLoop with lb := text "S30900002000DEADBEXF9E", lbLen := 22 }
    (fun t => t.recValid = false ∧ t.trace = []) = true := by decide

/-- R178; 60_exceptions.md R200. -/
theorem test_finish : gives .finish (at' .goAddr [])
    (fun t => t.ph = .done ∧ t.trace = [.report .success, .release] ∧ t.held = false ∧ t.exitStatus = .success) = true := by
  decide
theorem test_fatal : gives (.fatal .wrAddr .nack) (at' .wrAddr [])
    (fun t => t.ph = .fail ∧ t.trace = [.diagFatal .wrAddr .nack, .release] ∧ t.held = false ∧ failure t = (8, 1, 2, 2)) =
      true := by decide

/-! ### The step -/

/-- 70_reset_and_hazards.md R222, R221; 93_implementation_defined.md U2 (any value, and the machine goes on). -/
theorem test_step_reset_in_session_refused : step { at' .wrCmd [] with ctl := [.reset] } = .refused .resetInSession := rfl
theorem test_step_reset_after_done : step { at' .done [] with ctl := [.reset], ver := 7, wlog := [(1, [])] } =
    .next { State.reset with txIn := List.replicate 4 .ok } := rfl
/-- R224 duty 3, R227: the image opened for the session, not the rest of the one before it; a `START` in `DONE` opens none. -/
theorem test_step_start_opens_its_image : step { State.reset with img := [text "S7"], ctl := [.start (some [text "S3", []])] } =
    .next { State.reset with ph := .sync, held := true, imgPresent := true, img := [text "S3", []] } := rfl
theorem test_step_start_ignored_opens_no_image : step { at' .done [] with img := [text "S7"], ctl := [.start (some [])] } =
    .next { at' .done [] with img := [text "S7"] } := rfl
theorem test_step_without_a_record_runs : (match step (at' .wrData []) with
    | .next _ => true
    | .fault _ => false
    | .refused _ => false) = true := rfl
theorem test_decode_before_any_line_runs : gives .decode State.reset (fun _ => true) = true := rfl
/-- 43_orchestrator.md R177: no record, so address 0. -/
theorem test_step_go_to_zero : (match step (at' .goAddr [.byte 0x79]) with
    | .next t => decide (t.tx = [0, 0, 0, 0, 0] ∧ t.ph = .done)
    | .fault _ => false
    | .refused _ => false) = true := by decide
/-- The table words run as the first operation after reset. -/
theorem test_step_fetch_word : step (State.reset.withFetchWord 40 0x2000004060) =
    exec (.wrmemAddr 0x20000040) { State.reset with ph := .wrAddr, held := true, recValid := true, recAddr := 0x20000040 } :=
  rfl
theorem test_fetch_word_data : State.reset.withFetchWord 16 0xFF00 =
    { State.reset with ph := .wrData, held := true, recValid := true, lenField := 5 } := by decide

/-! ### Witnesses: for each statement with hypotheses, states and operands that meet them, clause by clause -/

/-- Phase `p` of a session with an image `img`, an empty record in the registers. -/
def loop (p : Phase) (img : List Line) : State :=
  { at' p [] with verValid := true, pidValid := true, recValid := true, lenField := 5, img := img }

/-- A session that ended with success, and one that a refusal at `WR_ADDR` ended. -/
def ended : State := { loop .done [] with held := false, trace := [.report .success, .release] }
def failed : State :=
  { loop .fail [] with
    held := false
    failStep := some .wrAddr
    failClass := .nack
    errKind := .protocol
    exitStatus := .protocolFailure
    trace := [.diagFatal .wrAddr .nack, .release] }

theorem test_inv_loop (p : Phase) (img : List Line) (h : inSession p = true) : Inv (loop p img) := by
  constructor <;> revert h <;> cases p <;>
    simp [loop, at', State.reset, Cfg.default, inSession, inRecord, inLoad, afterVersion, terminal, beforeLoad]

theorem test_inv_reset : Inv State.reset := by
  constructor <;> simp [State.reset, inSession, inRecord, inLoad, afterVersion, terminal]

theorem test_inv_ended : Inv ended := by
  constructor <;> simp [ended, loop, at', State.reset, Cfg.default, inSession, inRecord, inLoad, terminal]

theorem test_inv_failed : Inv failed := by
  constructor <;> simp [failed, loop, at', State.reset, Cfg.default, inSession, inRecord, inLoad, afterVersion, terminal,
    fatalPair, kindOf]

theorem witness_DecodeOfEncodeIsTheOperation :
    (Instr.record 0xFFFFFFFF (List.replicate 64 0xFF)).wf = true ∧
      encode (.record 0xFFFFFFFF []) = some (.line, text "S305FFFFFFFF") ∧
    (Instr.wrmemData []).wf = true ∧ encode (.wrmemData []) = some (.wrData, [0xFF, 0x00]) ∧
    (Instr.nack 0xFF).wf = true ∧ encode (.nack 0xFF) = some (.reply, [0xFF]) := by decide

theorem witness_DecodedFramesAreEncodings :
    decode true .unit [0x7F] = .ok .sync ∧ decode true .wrAddr [0, 0, 0, 0, 0] = .ok (.wrmemAddr 0) ∧
    decode true .wrData [0xFF, 0x00] = .ok (.wrmemData []) ∧
    decode true .goAddr [0xFF, 0xFF, 0xFF, 0xFF, 0x00] = .ok (.goAddr 0xFFFFFFFF) ∧
    decode true .reply [0x78] = .ok (.nack 0x78) ∧
    decode true (.exchange .ctrl) [0x01, 0xFE] = .ok (.xchg [0x01] .ctrl) := by decide

/-- The six forms, each by a line of 95_test_vectors.md section 4. -/
theorem witness_LineFormsByPosition :
    decodeLine true [] = .nothing ∧ decodeLine true (text "S") = .skip .tag ∧
    decodeLine true (text "S3050000200") = .skip .hdr ∧ decodeLine true (text "S30400002000") = .skip .len ∧
    decodeLine true (text "S306000020000") = .skip .data ∧
    decodeLine true (text "S30500002000") = .record 0x2000 [] := by decide

theorem test_headed (lf : String) (h : (text lf).length = 2 ∧ hexval true ((text lf).getD 0 0) ≠ none ∧
    hexval true ((text lf).getD 1 0) ≠ none) : headed true (text "S3" ++ text lf ++ text "00002000") := by
  have ht : text "S3" = [0x53, 0x33] := by decide
  have ha : text "00002000" = [0x30, 0x30, 0x30, 0x30, 0x32, 0x30, 0x30, 0x30] := by decide
  rw [ht, ha]
  obtain ⟨hl, h0, h1⟩ := h
  match hq : text lf, hl with
  | [x, y], _ =>
    rw [hq] at h0 h1
    refine ⟨⟨by simp, rfl, rfl⟩, fun i hi hj => ⟨by simp; omega, ?_⟩⟩
    match i, hi, hj with
    | 2, _, _ => simpa using h0
    | 3, _, _ => simpa using h1
    | 4, _, _ | 5, _, _ | 6, _, _ | 7, _, _ | 8, _, _ | 9, _, _ | 10, _, _ | 11, _, _ => simp; decide

/-- The length field at both edges of each clause. -/
theorem witness_LengthFieldBounds :
    headed true (text "S3" ++ text "04" ++ text "00002000") ∧ headed true (text "S3" ++ text "05" ++ text "00002000") ∧
    headed true (text "S3" ++ text "45" ++ text "00002000") ∧ headed true (text "S3" ++ text "46" ++ text "00002000") ∧
    byteAt true (text "S3" ++ text "04" ++ text "00002000") 2 = some 0x04 ∧
    byteAt true (text "S3" ++ text "05" ++ text "00002000") 2 = some 0x05 ∧
    byteAt true (text "S3" ++ text "45" ++ text "00002000") 2 = some 0x45 ∧
    byteAt true (text "S3" ++ text "46" ++ text "00002000") 2 = some 0x46 :=
  ⟨test_headed "04" (by decide), test_headed "05" (by decide), test_headed "45" (by decide), test_headed "46" (by decide),
    by decide, by decide, by decide, by decide⟩

theorem witness_HeaderAndDataTests :
    tagged (text "S3") ∧ headed true (text "S3" ++ text "05" ++ text "00002000") ∧
    byteAt true (text "S3" ++ text "05" ++ text "00002000") 2 = some 0x05 ∧
    headed true (text "S3" ++ text "45" ++ text "00002000") ∧
    byteAt true (text "S3" ++ text "45" ++ text "00002000") 2 = some 0x45 :=
  ⟨⟨by decide, by decide, by decide⟩, test_headed "05" (by decide), by decide, test_headed "45" (by decide), by decide⟩

theorem witness_RecordOperandsByPosition :
    decodeLine true (text "S30900002000DEADBEEF9E") = .record 0x2000 [0xDE, 0xAD, 0xBE, 0xEF] := by decide

theorem witness_RestOfLineIsNeverRead :
    decodeLine true (text "S30900002000DEADBEEFzz garbage") = .record 0x2000 [0xDE, 0xAD, 0xBE, 0xEF] ∧
    decodeLine true (text "S30500002000") = .record 0x2000 [] := by decide

theorem witness_HexDigitValues :
    hexval true 0x30 = some 0 ∧ hexval true 0x39 = some 9 ∧ hexval true 0x41 = some 10 ∧ hexval true 0x46 = some 15 ∧
    hexval true 0x61 = some 10 ∧ hexval true 0x66 = some 15 ∧ hexval false 0x61 = none ∧ hexval true 0x2F = none ∧
    hexval true 0x3A = none ∧ hexval true 0x40 = none ∧ hexval true 0x47 = none ∧ hexval true 0x60 = none ∧
    hexval true 0x67 = none := by decide

theorem witness_ChecksumLaws : ([] : List Byte).length ≠ 1 ∧ ([0x00, 0x55] : List Byte).length ≠ 1 ∧
    2 ≤ ([0x00, 0x55] : List Byte).length ∧ List.Perm ([1, 2] : List Byte) [2, 1] :=
  ⟨by decide, by decide, by decide, List.Perm.swap _ _ _⟩

/-- At the first attempt, and at the last. -/
theorem witness_SyncEndsAtTheFirstAcknowledge :
    (∃ (s : State) (es : List RxEvent) (txs : List TxAnswer) (rxs : List RxEvent),
      s.cfg.tSync ≠ 0 ∧ es.length < s.cfg.maxAttempts ∧ es.all (spent s.cfg.syncRxErrorFatal) = true ∧
      s.txIn = List.replicate (es.length + 1) .ok ++ txs ∧ s.rxIn = es ++ .byte 0x79 :: rxs ∧ es = []) ∧
    (∃ (s : State) (es : List RxEvent) (txs : List TxAnswer) (rxs : List RxEvent),
      s.cfg.tSync ≠ 0 ∧ es.length < s.cfg.maxAttempts ∧ es.all (spent s.cfg.syncRxErrorFatal) = true ∧
      s.txIn = List.replicate (es.length + 1) .ok ++ txs ∧ s.rxIn = es ++ .byte 0x79 :: rxs ∧
      es.length + 1 = s.cfg.maxAttempts ∧ es = [.timedOut, .error, .byte 0x1F]) :=
  ⟨⟨at' .sync [.byte 0x79], [], [.ok, .ok, .ok], [], by decide⟩,
    ⟨{ at' .sync [.timedOut, .error, .byte 0x1F, .byte 0x79] with cfg := { Cfg.default with maxAttempts := 4 } },
      [.timedOut, .error, .byte 0x1F], [], [], by decide⟩⟩

/-- Three attempts, and none (40_synchronizer.md R117 (a)). -/
theorem witness_SyncAttemptsExhausted :
    (∃ (s : State) (es : List RxEvent) (txs : List TxAnswer) (rxs : List RxEvent),
      s.cfg.tSync ≠ 0 ∧ es.length = s.cfg.maxAttempts ∧ es.all (spent s.cfg.syncRxErrorFatal) = true ∧
      s.txIn = List.replicate es.length .ok ++ txs ∧ s.rxIn = es ++ rxs ∧ es = [.timedOut, .error, .byte 0xFF]) ∧
    (∃ (s : State) (es : List RxEvent) (txs : List TxAnswer) (rxs : List RxEvent),
      s.cfg.tSync ≠ 0 ∧ es.length = s.cfg.maxAttempts ∧ es.all (spent s.cfg.syncRxErrorFatal) = true ∧
      s.txIn = List.replicate es.length .ok ++ txs ∧ s.rxIn = es ++ rxs ∧ es = []) :=
  ⟨⟨{ at' .sync [.timedOut, .error, .byte 0xFF] with cfg := { Cfg.default with maxAttempts := 3 } },
      [.timedOut, .error, .byte 0xFF], [.ok], [], by decide⟩,
    ⟨{ at' .sync [] with cfg := { Cfg.default with maxAttempts := 0 } }, [], List.replicate 4 .ok, [], by decide⟩⟩

theorem witness_SyncWriteFailureAborts :
    ∃ (s : State) (es : List RxEvent) (k : Nat) (txs : List TxAnswer) (rxs : List RxEvent),
      s.cfg.tSync ≠ 0 ∧ es.length < s.cfg.maxAttempts ∧ es.all (spent s.cfg.syncRxErrorFatal) = true ∧
      s.txIn = List.replicate es.length .ok ++ .error k :: txs ∧ s.rxIn = es ++ rxs :=
  ⟨{ at' .sync [.timedOut, .timedOut] with txIn := [.ok, .ok, .error 0] }, [.timedOut, .timedOut], 0, [], [], by decide⟩

theorem witness_SyncReadErrorFatalWhenConfigured :
    ∃ (s : State) (es : List RxEvent) (txs : List TxAnswer) (rxs : List RxEvent),
      s.cfg.tSync ≠ 0 ∧ s.cfg.syncRxErrorFatal = true ∧ es.length < s.cfg.maxAttempts ∧ es.all (spent true) = true ∧
      s.txIn = List.replicate (es.length + 1) .ok ++ txs ∧ s.rxIn = es ++ .error :: rxs :=
  ⟨{ at' .sync [.timedOut, .error] with cfg := { Cfg.default with syncRxErrorFatal := true } }, [.timedOut], [.ok, .ok], [],
    by decide⟩

/-- The hypotheses on the answers of one exchange: an acknowledge, another byte at both edges of the acknowledge, silence, an
error, a payload not taken; they serve `ExchangeOutcomes`, `ExchangeThenMove`, `DataExchange`, `GoAddressExchange` and
`ExchangeFailures`. -/
theorem witness_exchange_answers :
    (∃ (s : State) (a : TxAnswer) (txs : List TxAnswer) (rxs : List RxEvent),
      s.txIn = .ok :: a :: txs ∧ s.rxIn = .byte 0x79 :: rxs ∧ a = .error 0) ∧
    (∃ (s : State) (a : TxAnswer) (txs : List TxAnswer) (rxs : List RxEvent),
      s.txIn = .ok :: a :: txs ∧ s.rxIn = .byte 0x78 :: rxs ∧ (0x78 : Byte) ≠ 0x79) ∧
    (∃ (s : State) (a : TxAnswer) (txs : List TxAnswer) (rxs : List RxEvent),
      s.txIn = .ok :: a :: txs ∧ s.rxIn = .byte 0x7A :: rxs ∧ (0x7A : Byte) ≠ 0x79) ∧
    (∃ (s : State) (a : TxAnswer) (txs : List TxAnswer) (rxs : List RxEvent),
      s.txIn = .ok :: a :: txs ∧ s.rxIn = .timedOut :: rxs) ∧
    (∃ (s : State) (a : TxAnswer) (txs : List TxAnswer) (rxs : List RxEvent),
      s.txIn = .ok :: a :: txs ∧ s.rxIn = .error :: rxs) ∧
    (∃ (s : State) (k : Nat) (txs : List TxAnswer), s.txIn = .error k :: txs) :=
  ⟨⟨{ at' .wrCmd [.byte 0x79] with txIn := [.ok, .error 0] }, .error 0, [], [], by decide⟩,
    ⟨at' .wrCmd [.byte 0x78], .ok, [.ok, .ok], [], by decide⟩, ⟨at' .wrCmd [.byte 0x7A], .ok, [.ok, .ok], [], by decide⟩,
    ⟨at' .wrCmd [.timedOut], .ok, [.ok, .ok], [], by decide⟩, ⟨at' .wrCmd [.error], .ok, [.ok, .ok], [], by decide⟩,
    ⟨{ at' .wrCmd [] with txIn := [.error 3] }, 3, [], by decide⟩⟩

/-- The operations of `ExchangeThenMove`, `AnyOtherOutcomeEndsTheSession`, `ExchangeFrame` and `ExchangeFailures`. -/
theorem witness_exchange_operations :
    plainExchange .getverCmd = some ([0x01], .getverResp) ∧ plainExchange .getidCmd = some ([0x02], .getidResp) ∧
    plainExchange .wrmemCmd = some ([0x31], .wrAddr) ∧
    plainExchange (.wrmemAddr 0xFFFFFFFF) = some ([0xFF, 0xFF, 0xFF, 0xFF], .wrData) ∧
    plainExchange .goCmd = some ([0x21], .goAddr) ∧ exchangePayload (.wrmemData []) = some [0xFF] ∧
    exchangePayload (.wrmemData [0x55]) = some [0x00, 0x55] ∧ exchangePayload (.goAddr 0) = some [0, 0, 0, 0] := by decide

/-- The first clause of `DataExchange`. -/
theorem witness_DataExchange : (loop .wrData []).recValid = true := rfl

theorem witness_RefusalByteIsNotStored :
    exchangePayload .wrmemCmd ≠ none ∧ (0x00 : Byte) ≠ 0x79 ∧ (0x1F : Byte) ≠ 0x79 ∧ (at' .wrCmd []).txIn = [.ok, .ok, .ok, .ok] ∧
    gives .wrmemCmd (at' .wrCmd [.byte 0x00]) (fun _ => true) = true ∧
    gives .wrmemCmd (at' .wrCmd [.byte 0x1F]) (fun _ => true) = true := by decide

theorem witness_ReplyByteMeanings : (at' .sync []).ph = .sync ∧ (at' .wrCmd []).ph ≠ .sync := by decide

/-- The second conjunct of `GoAddressExchange`, and each clause of `PhaseSelectsItsOperation`. -/
theorem witness_PhaseSelectsItsOperation :
    (∀ p, (at' p []).ph = p) ∧ (loop .wrAddr []).recValid = true ∧ (loop .wrData []).recValid = true ∧
    (at' .wrAddr []).recValid = false ∧ (at' .wrData []).recValid = false ∧
    (at' .goAddr []).entryValid = false ∧ ({ at' .goAddr [] with entryValid := true } : State).entryValid = true ∧
    State.reset.ph ∈ [Phase.idle, .done, .fail] :=
  ⟨fun _ => rfl, rfl, rfl, rfl, rfl, rfl, rfl, by decide⟩

/-- Four bytes, no byte at all before the wait runs out, three before an error. -/
theorem witness_ResponseRead :
    (at' .getverResp [.byte 1, .byte 2, .byte 3, .byte 4]).rxIn = .byte 1 :: .byte 2 :: .byte 3 :: .byte 4 :: [] ∧
    (at' .getverResp []).cfg.tResp ≠ 0 ∧ ([] : List Byte).length < 4 ∧ ([1, 2, 3] : List Byte).length < 4 ∧
    (at' .getverResp [.timedOut]).rxIn = ([] : List Byte).map .byte ++ .timedOut :: [] ∧
    (at' .getverResp [.byte 1, .byte 2, .byte 3, .error]).rxIn = ([1, 2, 3] : List Byte).map .byte ++ .error :: [] := by decide

/-- For `VersionIsTheFirstByte`, `ProductIdIsBytesOneAndTwo` and `WithoutImageTheSessionStops`. -/
theorem witness_response_blocks :
    (at' .getidResp [.byte 0, .byte 0xFF, .byte 0xFF, .byte 0]).rxIn = .byte 0 :: .byte 0xFF :: .byte 0xFF :: .byte 0 :: [] ∧
    (at' .getidResp []).imgPresent = true ∧ ({ at' .getidResp [] with imgPresent := false } : State).imgPresent = false := by
  decide

theorem witness_FetchRunsTheLinesForm : ∃ (s : State) (cs : Line) (rest : List Line),
    s.img = cs :: rest ∧ cs.length ≤ s.cfg.lineMax ∧ s.cfg.lineMax = cs.length :=
  ⟨{ loop .fetch [List.replicate 3 0x20] with cfg := { Cfg.default with lineMax := 3 } }, List.replicate 3 0x20, [], by decide⟩

theorem witness_EndOfImageGoesToGo : (loop .fetch []).img = [] := rfl

theorem witness_OverlongLineIsRefused : ∃ (s : State) (cs : Line) (rest : List Line),
    s.img = cs :: rest ∧ s.cfg.lineMax < cs.length ∧ s.cfg.lineMax + 1 = cs.length :=
  ⟨{ loop .fetch [List.replicate 4 0x20] with cfg := { Cfg.default with lineMax := 3 } }, List.replicate 4 0x20, [], by decide⟩

theorem witness_SkippedLineIsOnlyReported :
    (Instr.skipTag, SkipReason.tag) ∈ [(Instr.skipTag, SkipReason.tag), (.skipHdr, .hdr), (.skipLen, .len), (.skipData, .data)] ∧
    (Instr.skipData, SkipReason.data) ∈ [(Instr.skipTag, SkipReason.tag), (.skipHdr, .hdr), (.skipLen, .len),
      (.skipData, .data)] := by decide

theorem witness_RecordLineIsLatched : ([] : List Byte).length ≤ 64 ∧ (List.replicate 64 (0xFF : Byte)).length ≤ 64 := by decide

/-- A line that is a record, and one that is none. -/
theorem witness_DecodeWritesOnlyTheRecord :
    decodeLine true ((text "S30500002000").take 12) = .record 0x2000 [] ∧
    (∀ a d, decodeLine true ((text "S30500002000").take 11) ≠ .record a d) :=
  ⟨by decide, fun a d => by rw [show decodeLine true ((text "S30500002000").take 11) = .skip .hdr by decide]; simp⟩

theorem witness_StartOnlyInIdle : State.reset.ph = .idle ∧ (at' .sync []).ph ≠ .idle ∧ ended.ph ≠ .idle := by decide

theorem witness_StepRunsTheSelectedOperation :
    select (loop .fetch []) = .op .fetch ∧ select State.reset = .rest ∧
    (loop .fetch []).ctl = [] ∧ (loop .fetch []).call = none ∧ ({ State.reset with call := some .finish } : State).ctl = [] ∧
    ({ loop .fetch [] with ctl := [.quiet] } : State).ctl = [.quiet] := by decide

theorem witness_PlacedWordRuns : decodeTableWord 8 0x7F = some .sync ∧ decodeTableWord 32 0 = some .rdresp ∧
    decodeTableWord 40 0 = some (.wrmemAddr 0) ∧ decodeTableWord 24 0x005555 = some (.wrmemData [0x55]) := by decide

theorem witness_ControlInputsAtTheBoundary :
    ({ State.reset with ctl := [.start (some [])] } : State).ctl = .start (some []) :: [] ∧ State.reset.ph = .idle ∧
    ({ ended with ctl := [.reset] } : State).ctl = .reset :: [] ∧ ended.ph ∈ [Phase.idle, .done, .fail] ∧
    (loop .sync []).ph ∉ [Phase.idle, .done, .fail] ∧ (loop .goAddr []).ph ∉ [Phase.idle, .done, .fail] := by decide

/-- A state of a run from which a step is taken, with the three invariants. -/
theorem witness_invariants : ∃ s t : State, Inv s ∧ WireInv s ∧ CountInv s ∧ s.ctl = [] ∧ s.call = none ∧ step s = .next t ∧
    s ≠ t :=
  ⟨{ State.reset with imgPresent := true, held := true, ph := .sync, cfg := { Cfg.default with maxAttempts := 0 } }, _,
    by constructor <;> simp [State.reset, inSession, inRecord, inLoad, afterVersion, terminal],
    fun _ => rfl, fun _ => ⟨rfl, rfl⟩, rfl, rfl, rfl, by decide⟩

theorem witness_RequestsAreCounted_done : ∃ s : State, CountInv s ∧ s.ph = .done :=
  ⟨{ State.reset with
      ph := .done
      att := 1
      trace := [.txWrite [0x7F] true, .rxRead 1 100 (.ok [0x79]), .txWrite [1] true, .txWrite [0xFE] true,
        .rxRead 1 100 (.ok [0x79]), .rxRead 4 100 (.ok [0, 0, 0, 0]), .txWrite [2] true, .txWrite [0xFD] true,
        .rxRead 1 100 (.ok [0x79]), .rxRead 4 100 (.ok [0, 0, 0, 0]), .report .success, .release] },
    fun _ => by decide, rfl⟩

theorem witness_EntryAddressIsSetOnce : ∃ s t : State, s.ctl.head? ≠ some .reset ∧ s.entryValid = true ∧ step s = .next t :=
  ⟨{ loop .fetch [] with entryValid := true, entryAddr := 5 }, _, by decide, rfl, rfl⟩

/-- For `WriteLogGrowsByTheRecordInHand`, `TraceAndTransmitOnlyGrow`, `ConfigurationIsConstant` and `PhaseTransitions`. -/
theorem witness_steps : ∃ s t : State, s.ctl.head? ≠ some .reset ∧ s.ctl = [] ∧ s.call = none ∧ s.ph = .wrData ∧
    step s = .next t ∧ t.wlog = [(0, [])] := by
  refine ⟨{ loop .wrData [] with rxIn := [.byte 0x79] }, _, by decide, rfl, rfl, rfl, rfl, by decide⟩

theorem witness_NoRequestUnlessHeld : ∃ s t : State, Inv s ∧ s.held = false ∧ s.ctl.head? ≠ some .reset ∧ step s = .next t :=
  ⟨State.reset, State.reset, test_inv_reset, rfl, by decide, rfl⟩

/-- Each of the three cases of `OnlyTheHostCanStopARun` occurs in a state of a run. -/
theorem witness_OnlyTheHostCanStopARun : (∃ s t : State, Inv s ∧ step s = .next t) ∧
    (∃ s : State, Inv s ∧ step s = .refused .lineTooLong) ∧ (∃ s : State, Inv s ∧ step s = .refused .resetInSession) := by
  refine ⟨⟨loop .fetch [], _, test_inv_loop _ _ rfl, rfl⟩,
    ⟨{ loop .fetch [[0]] with cfg := { Cfg.default with lineMax := 0 } }, ?_, rfl⟩,
    ⟨{ loop .sync [] with ctl := [.reset] }, ?_, rfl⟩⟩ <;>
    constructor <;>
    simp [loop, at', State.reset, Cfg.default, inSession, inRecord, inLoad, afterVersion, terminal]

theorem witness_SessionEnds : ∃ s : State, Inv s ∧ s.ctl = [] ∧ inSession s.ph = true ∧
    (∀ cs ∈ s.img, cs.length ≤ s.cfg.lineMax) ∧ s.img.length = 2 :=
  ⟨loop .fetch [[], text "S30500002000"], test_inv_loop _ _ rfl, rfl, rfl, by decide, rfl⟩

theorem witness_FailureKeepsTheOtherRegisters : ∃ s t : State, s.ph ≠ .fail ∧ s.ctl.head? ≠ some .reset ∧ s.call = none ∧
    step s = .next t ∧ t.ph = .fail :=
  ⟨{ loop .wrAddr [] with rxIn := [.byte 0x1F] }, _, by decide, by decide, rfl, rfl, by decide⟩

theorem witness_FailIsTerminal : ∃ s t : State, s.ph = .fail ∧ s.call = none ∧ step s = .next t ∧ s.ctl.head? ≠ some .reset :=
  ⟨failed, failed, rfl, rfl, rfl, by decide⟩

theorem witness_FailIsLeftByReset : ∃ s t : State, s.ph = .fail ∧ s.call = none ∧ step s = .next t ∧
    s.ctl.head? = some .reset :=
  ⟨{ failed with ctl := [.reset] }, _, rfl, rfl, rfl, rfl⟩

/-- Both clauses: the step that leaves for Go, and an image of which no line is a record. -/
theorem witness_GoComesOnlyAfterTheImage :
    (∃ s t : State, s.ctl = [] ∧ s.call = none ∧ step s = .next t ∧ t.ph = .goCmd) ∧
    (∃ s : State, s.ctl = [] ∧ s.call = none ∧ s.ph = .fetch ∧ s.entryValid = false ∧ s.img.length = 2 ∧
      ∀ cs ∈ s.img, cs.length ≤ s.cfg.lineMax ∧ ∀ a d, decodeLine s.cfg.hexLower cs ≠ .record a d) := by
  refine ⟨⟨loop .fetch [], _, rfl, rfl, rfl, rfl⟩, ⟨loop .fetch [[], text "S1130000"], rfl, rfl, rfl, rfl, rfl, ?_⟩⟩
  intro cs hcs
  have : cs = [] ∨ cs = text "S1130000" := by simpa [loop] using hcs
  rcases this with rfl | rfl
  · exact ⟨by decide, fun a d => by rw [show decodeLine _ [] = .nothing from rfl]; simp⟩
  · refine ⟨by decide, fun a d => ?_⟩
    rw [show decodeLine (loop .fetch [[], text "S1130000"]).cfg.hexLower (text "S1130000") = .skip .tag by decide]
    simp

/-- 60_exceptions.md R193: what a host reads after a failure in `WR_ADDR`, and that it does not before. -/
theorem test_host_reads_the_failed_record :
    (hostView { failed with ln := 3, recAddr := 0x2000 }).ln = some 3 ∧
    (hostView { failed with ln := 3, recAddr := 0x2000 }).recAddr = some 0x2000 ∧
    (hostView (loop .wrAddr [])).ln = none ∧ (hostView (loop .wrAddr [])).recAddr = none := by decide

/-- Each guard of `HostReadsBehindTheGuards`. -/
theorem witness_HostReadsBehindTheGuards : Inv (loop .sync []) ∧ terminal (loop .sync []).ph = false ∧ Inv ended ∧
    ended.ph = .done ∧ Inv failed ∧ failed.ph = .fail :=
  ⟨test_inv_loop _ _ rfl, rfl, test_inv_ended, rfl, test_inv_failed, rfl⟩

end Sys2Proof.Tests
end

section
/-! PROOFS. The synchronizer: what `SYNC` does once its first attempts are spent, by what ends it (40_synchronizer.md R112,
R114, R115). -/

namespace Sys2Proof.Machine

open Sys2Proof.Safety

/-- An attempt whose write is refused ends the loop with its number in `ATT` and no read (R112): of its one sync byte none
was taken. -/
theorem syncLoop_writeFailed {s : State} {k : Nat} {txs : List TxAnswer} (n : Nat) (ht : s.txIn = .error k :: txs) :
    syncLoop (n + 1) s = aborted .sync .io .link { s with
      att := s.att + 1, txIn := txs, trace := s.trace ++ [.txWrite [0x7F] false] } := by
  have hw := txWrite_error (s := { s with att := s.att + 1 }) [Config.syncByte] ht
  have hnone : [Config.syncByte].take (k % [Config.syncByte].length) = [] := by
    rw [List.length_singleton, Nat.mod_one, List.take_zero]
  simp only [syncLoop, hw, hnone, List.append_nil, fatal_eq]
  rfl

/-- `SYNC` whose first attempts are spent goes on with the attempts left, from the state they leave (R113). -/
theorem exec_sync_attempted {s : State} {es : List RxEvent} {txs : List TxAnswer} {rxs : List RxEvent} (k : Nat)
    (hms : s.cfg.tSync ≠ 0) (hk : es.length + k = s.cfg.maxAttempts)
    (hsp : es.all (spent s.cfg.syncRxErrorFatal) = true) (ht : s.txIn = List.replicate es.length .ok ++ txs)
    (hr : s.rxIn = es ++ rxs) : exec .sync s = .next (syncLoop k (attempted es txs rxs s)) := by
  have h := syncLoop_spent _ _ hms es k { s with att := 0 } txs rxs rfl rfl hsp ht hr
  rw [exec, execSync, ← hk, h]
  simp [attempted]

/-- Each attempt is one write and one read (R116). -/
theorem countP_attempts (ms : Nat) (es : List RxEvent) :
    (es.flatMap (attempt ms)).countP isTxWrite = es.length ∧ (es.flatMap (attempt ms)).countP isRxRead = es.length := by
  induction es with
  | nil => exact ⟨rfl, rfl⟩
  | cons e es ih =>
    obtain ⟨hw, hr⟩ := ih
    rw [List.flatMap_cons, List.countP_append, List.countP_append, hw, hr]
    exact ⟨Nat.add_comm 1 _, Nat.add_comm 1 _⟩

theorem attempted_countP (es : List RxEvent) (txs : List TxAnswer) (rxs : List RxEvent) (s : State) :
    (attempted es txs rxs s).trace.countP isTxWrite = s.trace.countP isTxWrite + es.length ∧
    (attempted es txs rxs s).trace.countP isRxRead = s.trace.countP isRxRead + es.length := by
  obtain ⟨hw, hr⟩ := countP_attempts s.cfg.tSync es
  simp only [attempted, List.countP_append, hw, hr, and_self]

/-- The abort path makes no request of the transport. -/
theorem aborted_countP (p : Phase) (c : FailClass) (kind : ErrKind) (s : State) :
    (aborted p c kind s).trace.countP isTxWrite = s.trace.countP isTxWrite ∧
    (aborted p c kind s).trace.countP isRxRead = s.trace.countP isRxRead := by
  simp only [aborted, List.countP_append]
  exact ⟨rfl, rfl⟩

/-- Settles O11: the spent attempts leave at least one, and it reads the acknowledge. -/
theorem syncEndsAtTheFirstAcknowledge : Obligations.SyncEndsAtTheFirstAcknowledge := by
  intro s es txs rxs hms hlen hsp ht hr
  obtain ⟨k, hk⟩ := Nat.exists_eq_add_of_lt hlen
  have ht' : s.txIn = List.replicate es.length .ok ++ .ok :: txs := by
    rw [ht, List.replicate_succ', List.append_assoc, List.singleton_append]
  rw [exec_sync_attempted (k + 1) hms hk.symm hsp ht' hr,
    syncLoop_acknowledged (s := attempted es (.ok :: txs) (.byte 0x79 :: rxs) s) hms rfl rfl rfl]
  simp [attempted, List.replicate_succ']

/-- Settles O12: the spent attempts leave none. -/
theorem syncAttemptsExhausted : Obligations.SyncAttemptsExhausted := by
  intro s es txs rxs hms hlen hsp ht hr
  have hexec := exec_sync_attempted 0 hms hlen hsp ht hr
  rw [syncLoop, fatal_eq] at hexec
  refine ⟨_, hexec, ⟨rfl, rfl, rfl⟩, rfl, rfl, hlen, rfl, rfl, rfl, ?_⟩
  rw [(aborted_countP ..).1, (aborted_countP ..).2]
  exact attempted_countP es txs rxs s

/-- Settles O13: the spent attempts leave at least one, and its write is refused. -/
theorem syncWriteFailureAborts : Obligations.SyncWriteFailureAborts := by
  intro s es k txs rxs hms hlen hsp ht hr
  obtain ⟨n, hn⟩ := Nat.exists_eq_add_of_lt hlen
  have hexec := exec_sync_attempted (n + 1) hms hn.symm hsp ht hr
  rw [syncLoop_writeFailed n rfl] at hexec
  refine ⟨_, hexec, ⟨rfl, rfl, rfl⟩, rfl, rfl, rfl, rfl, rfl, rfl, ?_⟩
  obtain ⟨hw, hd⟩ := attempted_countP es (.error k :: txs) rxs s
  rw [(aborted_countP ..).1, (aborted_countP ..).2, List.countP_append, List.countP_append, hw, hd]
  exact ⟨rfl, rfl⟩

end Sys2Proof.Machine
end

section
/-! PROOFS. The exchange: the arithmetic of its checksum (41_exchange.md R122, R129), what it does by its reply (R124 to R126),
and that the byte of a refusal is not stored (R131). -/

namespace Sys2Proof.Machine

open Sys2Proof.Safety

/-! ### The checksum -/

theorem xorfold_singleton (b : Byte) : xorfold [b] = b := BitVec.xor_zero

theorem xorfold_perm {p q : List Byte} (h : p.Perm q) : xorfold p = xorfold q := by
  induction h with
  | nil => rfl
  | cons b _ ih => rw [xorfold_cons, xorfold_cons, ih]
  | swap a b l =>
    calc b ^^^ (a ^^^ xorfold l) = b ^^^ a ^^^ xorfold l := (BitVec.xor_assoc ..).symm
      _ = a ^^^ b ^^^ xorfold l := by rw [BitVec.xor_comm b a]
      _ = a ^^^ (b ^^^ xorfold l) := BitVec.xor_assoc ..
  | trans _ _ ih₁ ih₂ => exact ih₁.trans ih₂

/-- The law for one byte is the complement: `0xFF` has every bit set. -/
theorem cks_single_eq_not (b : Byte) : cks [b] = ~~~b := BitVec.allOnes_sub_eq_not b

theorem cks_single_eq_xor (b : Byte) : cks [b] = b ^^^ 0xFF :=
  (cks_single_eq_not b).trans BitVec.xor_allOnes.symm

theorem toNat_cks_single (b : Byte) : (cks [b]).toNat = 255 - b.toNat := by
  rw [cks_single_eq_not, BitVec.toNat_not]

theorem add_cks_single (b : Byte) : b + cks [b] = 0xFF := by
  rw [cks_single_eq_not]
  exact BitVec.add_not_self b

/-- A byte and its checksum add up to `0xFF` without a carry. -/
theorem toNat_add_cks_single (b : Byte) : (b + cks [b]).toNat = b.toNat + (cks [b]).toNat := by
  have hb := b.isLt
  rw [add_cks_single, toNat_cks_single]
  exact (Nat.add_sub_of_le (Nat.le_of_lt_succ hb)).symm

/-- A frame of a payload under the XOR-fold law folds to zero, its checksum cancelling the payload. -/
theorem xorfold_frame {p : List Byte} (h : p.length ≠ 1) : xorfold (frame p) = 0 := by
  rw [frame, xorfold_append, cks_of_length_ne_one h, xorfold_singleton]
  exact BitVec.xor_self

/-- A command frame folds to `0xFF`: its checksum differs from the command in every bit. -/
theorem xorfold_commandFrame (b : Byte) : xorfold [b, cks [b]] = 0xFF := by
  rw [xorfold_cons, xorfold_singleton, cks_single_eq_xor, ← BitVec.xor_assoc, BitVec.xor_self, BitVec.zero_xor]

/-- The two laws agree on no byte: the sum of a byte and its checksum is odd. -/
theorem cks_single_ne_xorfold (b : Byte) : cks [b] ≠ xorfold [b] := by
  rw [xorfold_singleton]
  intro h
  have hn := (congrArg BitVec.toNat h).symm.trans (toNat_cks_single b)
  omega

theorem cks_be32 (a : Word) : cks (be32 a) =
    a.extractLsb' 24 8 ^^^ a.extractLsb' 16 8 ^^^ a.extractLsb' 8 8 ^^^ a.extractLsb' 0 8 := by
  have hlen : (be32 a).length ≠ 1 := by simp [be32]
  rw [cks_of_length_ne_one hlen]
  simp [be32, BitVec.xor_assoc]

/-- Settles O10: the one-byte law is the complement, the other one a fold of the commutative, self-inverse XOR. -/
theorem checksumLaws : Obligations.ChecksumLaws :=
  ⟨fun b => ⟨rfl, toNat_cks_single b, cks_single_eq_not b, cks_single_eq_xor b, add_cks_single b, toNat_add_cks_single b⟩,
    fun _ => cks_of_length_ne_one,
    ⟨xorfold_nil, xorfold_singleton, xorfold_append, fun _ _ => xorfold_perm⟩,
    fun _ h => xorfold_frame (Nat.ne_of_gt h),
    xorfold_commandFrame,
    cks_single_ne_xorfold,
    cks_be32,
    by decide, by decide⟩

/-! ### The exchange by its reply -/

/-- Any byte but the acknowledge refuses, whichever it is (R126). -/
theorem classify_byte_ne_ack {b : Byte} (hb : b ≠ 0x79) : classify (.ok [b]) = .negativeAcknowledged := by
  have hne : [b] ≠ [Config.ackByte] := fun h => hb (List.singleton_inj.1 h)
  rw [classify, if_neg hne]

section
variable {s : State} {a : TxAnswer} {txs : List TxAnswer} {rxs : List RxEvent}

/-- `XCHG` by itself, the payload taken, by what the receive side shows. -/
theorem exec_xchg_sent {e : RxEvent} (p : List Byte) (t : ReplyTimeout) (ht : s.txIn = .ok :: a :: txs)
    (hr : s.rxIn = e :: rxs) : exec (.xchg p t) s =
      .next (exchanged p (replyMs t) a txs (answerOf e) rxs (classify (answerOf e)) s) := by
  rw [exec, execXchg, xchg_sent ht hr]

theorem exec_xchg_refused {b : Byte} (p : List Byte) (t : ReplyTimeout) (hb : b ≠ 0x79) (ht : s.txIn = .ok :: a :: txs)
    (hr : s.rxIn = .byte b :: rxs) : exec (.xchg p t) s =
      .next (exchanged p (replyMs t) a txs (.ok [b]) rxs .negativeAcknowledged s) := by
  rw [exec_xchg_sent p t ht hr, answerOf, classify_byte_ne_ack hb]

/-- A refused exchange of the orchestrator: `CHECK` takes the abort path with class `NACK`, and what would have followed an
acknowledge is not run. -/
theorem exchange_refused {b : Byte} {p : List Byte} {t : ReplyTimeout} (next : State → State) (hb : b ≠ 0x79)
    (ht : s.txIn = .ok :: a :: txs) (hr : s.rxIn = .byte b :: rxs) : exchange p t next s =
      aborted s.ph .nack .protocol (exchanged p (replyMs t) a txs (.ok [b]) rxs .negativeAcknowledged s) := by
  rw [exchange, xchg_sent ht hr, answerOf, classify_byte_ne_ack hb, check_failed next (c := .nack) rfl, fatal_eq]
  rfl

end

/-- The five exchanges that only move wait `T_CTRL` for their reply. -/
theorem exchangeMs_of_plainExchange {i : Instr} {r : List Byte × Phase} (h : plainExchange i = some r) :
    exchangeMs i = 100 := by
  cases i <;> cases h <;> rfl

/-- Each of the seven call sites is one exchange of its payload with its timeout. -/
theorem exec_eq_exchange {i : Instr} {p : List Byte} (hp : exchangePayload i = some p) (s : State) :
    ∃ t next, replyMs t = exchangeMs i ∧ exec i s = .next (exchange p t next s) := by
  rcases exec_exchange hp s with ⟨q, hq, he⟩ | ⟨d, rfl, -, he⟩ | ⟨e, rfl, -, he⟩
  · exact ⟨.ctrl, _, (exchangeMs_of_plainExchange hq).symm, he⟩
  · exact ⟨.data, _, rfl, he⟩
  · exact ⟨.ctrl, _, rfl, he⟩

theorem exec_exchange_refused {s : State} {i : Instr} {p : List Byte} {a : TxAnswer} {txs : List TxAnswer} {b : Byte}
    {rxs : List RxEvent} (hp : exchangePayload i = some p) (hb : b ≠ 0x79) (ht : s.txIn = .ok :: a :: txs)
    (hr : s.rxIn = .byte b :: rxs) : exec i s = .next (aborted s.ph .nack .protocol
      (exchanged p (exchangeMs i) a txs (.ok [b]) rxs .negativeAcknowledged s)) := by
  obtain ⟨t, next, hms, he⟩ := exec_eq_exchange hp s
  rw [he, exchange_refused next hb ht hr, hms]

/-- Settles O16, by the four answers a polled read of one byte can give. -/
theorem exchangeOutcomes : Obligations.ExchangeOutcomes := by
  intro s p t txs rxs a ms ht
  have hms : ms = replyMs t := by cases t <;> rfl
  rw [hms]
  exact ⟨exec_xchg_sent p t ht, fun _ hb => exec_xchg_refused p t hb ht, exec_xchg_sent p t ht, exec_xchg_sent p t ht⟩

/-- Settles O17: both runs' results are written out by the refusal lemmas, and the byte stands in the trace alone. -/
theorem refusalByteIsNotStored : Obligations.RefusalByteIsNotStored := by
  intro s t1 t2 i b1 b2 a txs rxs hi hb1 hb2 ht h1 h2
  rcases hi with hsite | ⟨p, t, rfl⟩
  · obtain ⟨p, hp⟩ := Option.ne_none_iff_exists'.1 hsite
    have ht1 := Host.Outcome.next.inj (h1.symm.trans (exec_exchange_refused hp hb1 ht rfl))
    have ht2 := Host.Outcome.next.inj (h2.symm.trans (exec_exchange_refused hp hb2 ht rfl))
    rw [ht1, ht2]
    rfl
  · have ht1 := Host.Outcome.next.inj (h1.symm.trans (exec_xchg_refused p t hb1 ht rfl))
    have ht2 := Host.Outcome.next.inj (h2.symm.trans (exec_xchg_refused p t hb2 ht rfl))
    rw [ht1, ht2]
    rfl

end Sys2Proof.Machine
end

section
/-! PROOFS. The record decoder: the verdict's tests one by one (42_record_decoder.md R144, R146, R148), from the parts of the
decoder they belong to. -/

namespace Sys2Proof

open Sys2Proof.Machine Sys2Proof.Safety

section
variable {lower : Bool} {cs body : Line} {lf : Byte} {a : Word} {n : Nat}

/-! ### Characters and pairs by position -/

theorem digitAt_drop {k i : Nat} : digitAt lower (cs.drop k) i ↔ digitAt lower cs (k + i) := by
  simp only [digitAt, List.length_drop, List.getD_eq_getElem?_getD, List.getElem?_drop, Nat.lt_sub_iff_add_lt']

/-- Some place of a range that begins within the line holds no digit: the line ends before the range does, or a character of
the range is no hex digit. -/
theorem exists_not_digitAt {lo hi : Nat} (h : lo ≤ cs.length) :
    (∃ i, lo ≤ i ∧ i < hi ∧ ¬ digitAt lower cs i) ↔
      cs.length < hi ∨ ∃ i, lo ≤ i ∧ i < hi ∧ hexval lower (cs.getD i 0) = none := by
  constructor
  · rintro ⟨i, hlo, hhi, hi⟩
    by_cases hend : i < cs.length
    · exact .inr ⟨i, hlo, hhi, by_contra fun hv => hi ⟨hend, hv⟩⟩
    · exact .inl (by omega)
  · rintro (hend | ⟨i, hlo, hhi, hv⟩)
    · exact ⟨cs.length, h, hend, fun hd => Nat.lt_irrefl _ hd.1⟩
    · exact ⟨i, hlo, hhi, fun hd => hd.2 hv⟩

/-- `hexPairs_eq_none` by the positions of the whole line. -/
theorem hexPairs_drop_eq_none {k : Nat} :
    hexPairs lower n (cs.drop k) = none ↔ ∃ i, k ≤ i ∧ i < k + 2 * n ∧ ¬ digitAt lower cs i := by
  refine (hexPairs_eq_none lower n (cs.drop k)).trans ⟨?_, ?_⟩
  · rintro ⟨i, hi, hd⟩
    exact ⟨k + i, by omega, by omega, mt digitAt_drop.2 hd⟩
  · rintro ⟨i, hk, hi, hd⟩
    obtain ⟨j, rfl⟩ := Nat.exists_eq_add_of_le hk
    exact ⟨j, by omega, mt digitAt_drop.1 hd⟩

theorem not_headed_iff (ht : tagged cs) :
    ¬ headed lower cs ↔ ∃ i, 2 ≤ i ∧ i < 12 ∧ ¬ digitAt lower cs i := by
  simp only [headed, ht, true_and, not_forall, exists_prop]

/-! ### The verdict of each test -/

theorem decodeData_eq_skip {r : SkipReason} :
    decodeData lower a n body = .skip r ↔ r = .data ∧ hexPairs lower n body = none := by
  unfold decodeData
  cases hexPairs lower n body <;> simp [eq_comm]

theorem decodeData_record_length {a' : Word} {d : List Byte} (h : decodeData lower a n body = .record a' d) :
    d.length = n := by
  unfold decodeData at h
  split at h
  · next hp =>
    cases h
    exact ((hexPairs_eq_some lower n body _).1 hp).1
  · cases h

theorem decodeLength_outside (h : lf.toNat < 5 ∨ 69 < lf.toNat) : decodeLength lower lf a body = .skip .len := by
  rcases decodeLength_cases lower lf a body with ⟨-, he⟩ | ⟨n, hn, -, hlf, -⟩
  · exact he
  · omega

theorem decodeLength_inside (h5 : 5 ≤ lf.toNat) (h69 : lf.toNat ≤ 69) :
    decodeLength lower lf a body = decodeData lower a (lf.toNat - 5) body := by
  rcases decodeLength_cases lower lf a body with ⟨hout, -⟩ | ⟨n, -, -, hlf, he⟩
  · omega
  · rw [he, hlf, Nat.add_sub_cancel]

theorem decodeLength_ne_skip_hdr : decodeLength lower lf a body ≠ .skip .hdr := by
  rcases decodeLength_cases lower lf a body with ⟨-, he⟩ | ⟨n, -, -, -, he⟩
  · rw [he]
    simp
  · rw [he, ne_eq, decodeData_eq_skip]
    simp

/-- `decodeLine_headed` for the length field the line is known to have. -/
theorem decodeLine_lengthField (h : headed lower cs) (hlf : byteAt lower cs 2 = some lf) :
    ∃ a, decodeLine lower cs = decodeLength lower lf a (cs.drop 12) := by
  obtain ⟨lf', a, hlf', -, -, -, -, -, he⟩ := decodeLine_headed h
  cases hlf.symm.trans hlf'
  exact ⟨a, he⟩

theorem headed_length (h : headed lower cs) : 12 ≤ cs.length := (h.2 11 (by decide) (by decide)).1

theorem decodeLine_eq_skip_hdr (ht : tagged cs) : decodeLine lower cs = .skip .hdr ↔ ¬ headed lower cs := by
  refine ⟨fun hv hh => ?_, decodeLine_unheaded ht⟩
  obtain ⟨lf, a, -, -, -, -, -, -, he⟩ := decodeLine_headed hh
  exact decodeLength_ne_skip_hdr (he.symm.trans hv)

theorem decodeLine_eq_skip_data (h : headed lower cs) (hlf : byteAt lower cs 2 = some lf) (h5 : 5 ≤ lf.toNat)
    (h69 : lf.toNat ≤ 69) : decodeLine lower cs = .skip .data ↔
      ∃ i, 12 ≤ i ∧ i < 12 + 2 * (lf.toNat - 5) ∧ ¬ digitAt lower cs i := by
  obtain ⟨a, he⟩ := decodeLine_lengthField h hlf
  rw [he, decodeLength_inside h5 h69, decodeData_eq_skip, hexPairs_drop_eq_none]
  exact and_iff_right rfl

end

/-- Settles O5: each test fails at a place that holds no digit, in the header's range or in the data field's. -/
theorem headerAndDataTests : Obligations.HeaderAndDataTests := by
  refine fun lower cs => ⟨fun ht => ?_, fun lf hh hlf h5 h69 => ?_⟩
  · rw [decodeLine_eq_skip_hdr ht, not_headed_iff ht, exists_not_digitAt ht.1]
    simp only [Nat.lt_succ_iff]
  · have hlast : ∀ i, i < 12 + 2 * (lf.toNat - 5) ↔ i ≤ 11 + 2 * (lf.toNat - 5) := by omega
    rw [decodeLine_eq_skip_data hh hlf h5 h69, exists_not_digitAt (headed_length hh)]
    simp only [hlast]

/-- Settles O8: the field outside the range is the length test's skip, inside it the data field is read. -/
theorem lengthFieldBounds : Obligations.LengthFieldBounds := by
  intro lower cs lf hh hlf
  obtain ⟨a, he⟩ := decodeLine_lengthField hh hlf
  rw [he]
  refine ⟨fun hout => decodeLength_outside (by omega), fun ⟨h5, h69⟩ => ?_, fun a' d hr => ?_⟩
  · rw [decodeLength_inside h5 h69, ne_eq, decodeData_eq_skip]
    simp
  · by_cases hout : lf.toNat < 5 ∨ 69 < lf.toNat
    · rw [decodeLength_outside hout] at hr
      cases hr
    · rw [decodeLength_inside (by omega) (by omega)] at hr
      have hlen := decodeData_record_length hr
      omega

end Sys2Proof
end

section
/-! PROOFS. The orchestrator's operations: its seven exchanges by their reply (43_orchestrator.md R161, R162, R165, R170, R171,
R176, R177) and the end of identification (R167). -/

namespace Sys2Proof.Machine

open Sys2Proof.Safety

/-! ### The exchanges by their reply -/

section
variable {s : State} {p : List Byte} {t : ReplyTimeout} {a : TxAnswer} {txs : List TxAnswer} {rxs : List RxEvent}

/-- An exchange whose reply is `0x79` goes on from the exchange's result. -/
theorem exchange_acknowledged (next : State → State) (ht : s.txIn = .ok :: a :: txs) (hr : s.rxIn = .byte 0x79 :: rxs) :
    exchange p t next s = next (exchanged p (replyMs t) a txs (.ok [0x79]) rxs .acknowledged s) := by
  rw [exchange, xchg_sent ht hr]
  exact check_acknowledged next rfl

/-- An exchange whose reply has a fatal class takes the abort path at the current phase, whatever would have followed. -/
theorem exchange_failed {e : RxEvent} {c : FailClass} (next : State → State) (ht : s.txIn = .ok :: a :: txs)
    (hr : s.rxIn = e :: rxs) (hc : classOf (classify (answerOf e)) = some c) : exchange p t next s =
      aborted s.ph c (kindOf c) (exchanged p (replyMs t) a txs (answerOf e) rxs (classify (answerOf e)) s) := by
  rw [exchange, xchg_sent ht hr, check_failed next hc, fatal_eq]
  rfl

end

/-- An operation that is one exchange does, acknowledged, what follows that exchange. -/
theorem acknowledged_of_exec {i : Instr} {p : List Byte} {t : ReplyTimeout} {next : State → State}
    (he : ∀ s, exec i s = .next (exchange p t next s)) : Acknowledged i p (replyMs t) next := by
  intro s txs rxs a ht hr
  rw [he, exchange_acknowledged next ht hr]

/-- A reply with a fatal class raises that class at each of the seven call sites. -/
theorem exec_exchange_raised {i : Instr} {p : List Byte} (hp : exchangePayload i = some p) {s : State} {a : TxAnswer}
    {txs : List TxAnswer} {rxs : List RxEvent} {e : RxEvent} {c : FailClass} (ht : s.txIn = .ok :: a :: txs)
    (hr : s.rxIn = e :: rxs) (hc : classOf (classify (answerOf e)) = some c) :
    ∃ u, exec i s = .next u ∧ Raised s.ph c u := by
  obtain ⟨t, next, -, he⟩ := exec_eq_exchange hp s
  exact ⟨_, he.trans (congrArg _ (exchange_failed next ht hr hc)), rfl, rfl, rfl⟩

theorem failsByReply_of_exchangePayload {i : Instr} {p : List Byte} (hp : exchangePayload i = some p) :
    FailsByReply i := by
  intro s txs rxs a ht
  refine ⟨fun b hb hr => exec_exchange_raised hp ht hr ?_, fun hr => exec_exchange_raised hp ht hr rfl,
    fun hr => exec_exchange_raised hp ht hr rfl⟩
  rw [answerOf, classify_byte_ne_ack hb]
  rfl

theorem exchangePayload_of_plainExchange {i : Instr} {p : List Byte} {q : Phase} (h : plainExchange i = some (p, q)) :
    exchangePayload i = some p := by
  cases i <;> cases h <;> rfl

theorem exec_plainExchange {i : Instr} {p : List Byte} {q : Phase} (h : plainExchange i = some (p, q)) (s : State) :
    exec i s = .next (exchange p .ctrl (fun u => u.goto q) s) := by
  cases i <;> cases h <;> rfl

/-- The five moves lead to phases of the session. -/
theorem plainExchange_ne_fail {i : Instr} {p : List Byte} {q : Phase} (h : plainExchange i = some (p, q)) : q ≠ .fail := by
  cases i <;> cases h <;> simp

/-- Settles O19: each of the five is an exchange with `T_CTRL` followed by its move. -/
theorem exchangeThenMove : Obligations.ExchangeThenMove := by
  intro i payload p h
  exact ⟨acknowledged_of_exec (exec_plainExchange h),
    failsByReply_of_exchangePayload (exchangePayload_of_plainExchange h)⟩

theorem exec_goAddr_acknowledged (e : Word) : Acknowledged (.goAddr e) (be32 e) 100 finished := by
  have hf : finish = finished := funext finish_eq
  rw [← hf]
  exact acknowledged_of_exec (t := .ctrl) fun _ => rfl

/-- Settles O21: the exchange is followed by `FINISH`, and the sequencer reads the operand behind `ENTRY_VALID`. -/
theorem goAddressExchange : Obligations.GoAddressExchange := by
  refine ⟨fun e => ⟨exec_goAddr_acknowledged e, failsByReply_of_exchangePayload rfl⟩, fun s hph => ?_⟩
  rw [select, hph]
  rfl

/-! ### CHECK -/

/-- The class that an outcome other than an acknowledge is given (R161). -/
theorem classOf_eq_some {o : ExchangeOutcome} {c : FailClass} (h : classOf o = some c) :
    o = .negativeAcknowledged ∧ c = .nack ∨ o = .timedOut ∧ c = .timeout ∨ o = .ioFailure ∧ c = .io := by
  cases o <;> cases h <;> simp

/-- Settles O23, by what one of the seven exchanges can do: its own effect on an acknowledge, else the abort path. -/
theorem anyOtherOutcomeEndsTheSession : Obligations.AnyOtherOutcomeEndsTheSession := by
  intro i p s hp
  obtain ⟨k, o, out, txs, rxs, n, l, -, hout, -, h⟩ := exec_exchange_cases hp s
  rcases h with ⟨rfl, -, -, ⟨q, hq, he⟩ | ⟨d, -, -, he⟩ | ⟨e, -, -, he⟩⟩ | ⟨c, hc, he⟩
  · exact ⟨_, he, rfl, ⟨out, rfl, hout⟩, .inl ⟨rfl, plainExchange_ne_fail hq⟩⟩
  · rw [latch_write] at he
    exact ⟨_, he, rfl, ⟨out, rfl, hout⟩, .inl ⟨rfl, by simp⟩⟩
  · exact ⟨_, he, rfl, ⟨out, rfl, hout⟩, .inl ⟨rfl, by simp [finished]⟩⟩
  · exact ⟨_, he, rfl, ⟨out, rfl, hout⟩, .inr ⟨rfl, rfl, rfl, rfl, classOf_eq_some hc⟩⟩

/-! ### The end of identification -/

theorem readResponse_four {s : State} {b0 b1 b2 b3 : Byte} {rxs : List RxEvent} (next : State → State)
    (h : s.rxIn = .byte b0 :: .byte b1 :: .byte b2 :: .byte b3 :: rxs) : readResponse next s = next { s with
      resp := #v[b0, b1, b2, b3]
      rxIn := rxs
      trace := s.trace ++ [.rxRead 4 s.cfg.tResp (.ok [b0, b1, b2, b3])] } := by
  rw [readResponse, Config.respLen, rxRead_four s.cfg.tResp h]
  rfl

theorem afterIdentify_image {u : State} (h : u.imgPresent = true) : afterIdentify u = u.goto .fetch := if_pos h

theorem afterIdentify_noImage {u : State} (h : u.imgPresent = false) : afterIdentify u = finished u := by
  rw [afterIdentify, h, ← finish_eq]
  rfl

theorem latchProductId_count_imgNext (a : Option Line) (u : State) :
    (latchProductId u).trace.count (.imgNext a) = u.trace.count (.imgNext a) := by
  simp [latchProductId, State.log]

theorem finished_count_imgNext (a : Option Line) (u : State) :
    (finished u).trace.count (.imgNext a) = u.trace.count (.imgNext a) := by
  simp [finished]

/-- Settles O29: with the four bytes read and the product ID latched, the image decides between `FETCH` and `FINISH`. -/
theorem withoutImageTheSessionStops : Obligations.WithoutImageTheSessionStops := by
  intro s b0 b1 b2 b3 rxs hr
  have he : exec .getidResp s = _ :=
    congrArg Host.Outcome.next (readResponse_four (fun u => afterIdentify (latchProductId u)) hr)
  refine ⟨_, he, fun himg => ?_, fun himg => ?_⟩
  · rw [afterIdentify_noImage]
    · refine ⟨rfl, rfl, rfl, rfl, rfl, fun a => ?_⟩
      rw [finished_count_imgNext, latchProductId_count_imgNext, List.count_append]
      rfl
    · exact himg
  · rw [afterIdentify_image]
    · rfl
    · exact himg

end Sys2Proof.Machine
end

section
/-! PROOFS. The way from the image to Go: which operation moves to `GO_CMD`, and how lines that are no record are passed
(43_orchestrator.md R169, R175). -/

namespace Sys2Proof.Machine

open Sys2Proof.Safety

/-! ### The phase after an operation -/

section
variable {s t : State} {i : Instr}

theorem exec_sync_ph (he : exec .sync s = .next t) : t.ph = .getverCmd ∨ t.ph = .fail := by
  obtain ⟨j, out, txs, rxs, n, l, -, -, -, ⟨h, -, -⟩ | ⟨c, -, h⟩⟩ := exec_sync_cases s <;> cases he.symm.trans h
  · exact .inl rfl
  · exact .inr rfl

theorem exec_exchange_ph {p : List Byte} (hp : exchangePayload i = some p) (he : exec i s = .next t) :
    t.ph = .fail ∨ plainExchange i = some (p, t.ph) ∨ (∃ d, i = .wrmemData d) ∧ t.ph = .fetch ∨
      (∃ e, i = .goAddr e) ∧ t.ph = .done := by
  obtain ⟨k, o, out, txs, rxs, n, l, -, -, -, h⟩ := exec_exchange_cases hp s
  rcases h with ⟨-, -, -, ⟨q, hq, h⟩ | ⟨d, hi, -, h⟩ | ⟨e, hi, -, h⟩⟩ | ⟨c, -, h⟩ <;> cases he.symm.trans h
  · exact .inr (.inl hq)
  · exact .inr (.inr (.inl ⟨⟨d, hi⟩, rfl⟩))
  · exact .inr (.inr (.inr ⟨⟨e, hi⟩, rfl⟩))
  · exact .inl rfl

theorem afterIdentify_ph (u : State) : (afterIdentify u).ph = .fetch ∨ (afterIdentify u).ph = .done := by
  cases h : u.imgPresent with
  | true => exact .inl (by rw [afterIdentify_image h]; rfl)
  | false => exact .inr (by rw [afterIdentify_noImage h]; rfl)

theorem exec_block_ph (hi : i = .getverResp ∨ i = .getidResp) (he : exec i s = .next t) :
    t.ph = .fail ∨ i = .getverResp ∧ t.ph = .getidCmd ∨ i = .getidResp ∧ (t.ph = .fetch ∨ t.ph = .done) := by
  have hi' : i = .getverResp ∨ i = .getidResp ∨ i = .rdresp := hi.imp_right .inl
  obtain ⟨rxs, m, a, ⟨bs, -, -, ⟨hv, h⟩ | ⟨hp, h⟩ | ⟨hr, -⟩⟩ | h | h⟩ := exec_response_cases hi' s
  · cases he.symm.trans h
    exact .inr (.inl ⟨hv, rfl⟩)
  · cases he.symm.trans h
    exact .inr (.inr ⟨hp, afterIdentify_ph _⟩)
  · simp [hr] at hi
  · cases he.symm.trans h
    exact .inl rfl
  · cases he.symm.trans h
    exact .inl rfl

/-- A line acted on leaves the phase as it is, unless it is a record. -/
theorem runVerdict_ph (v : Verdict) (u : State) : (runVerdict v u).ph = u.ph ∨ (runVerdict v u).ph = .wrCmd := by
  cases v with
  | nothing => exact .inl rfl
  | skip r => exact .inl rfl
  | record a d => exact .inr rfl

/-- A fetch moves to Go only with no line left. -/
theorem exec_fetch_ph (he : exec .fetch s = .next t) :
    s.img = [] ∧ t.ph = .goCmd ∨ t.ph = s.ph ∨ t.ph = .wrCmd := by
  rcases exec_fetch_cases s with ⟨himg, h⟩ | ⟨cs, rest, -, ⟨-, h⟩ | ⟨-, h⟩⟩ <;> cases he.symm.trans h
  · exact .inl ⟨himg, rfl⟩
  · exact .inr (runVerdict_ph _ _)

/-! ### What a phase selects -/

/-- The sequencer selects the seven exchanges and four other operations. -/
theorem select_cases (h : select s = .op i) :
    (∃ p, exchangePayload i = some p) ∨ i = .sync ∨ (i = .getverResp ∨ i = .getidResp) ∨ i = .fetch := by
  unfold select at h
  split at h <;> cases h <;> simp [exchangePayload]

theorem select_eq_fetch : select s = .op .fetch ↔ s.ph = .fetch := by
  unfold select
  cases s.ph <;> simp

/-- No other operation of a session moves to Go. -/
theorem eq_fetch_of_ph_goCmd (hsel : select s = .op i) (he : exec i s = .next t) (ht : t.ph = .goCmd) : i = .fetch := by
  rcases select_cases hsel with ⟨p, hp⟩ | rfl | hi | hi
  · have hplain : plainExchange i ≠ some (p, .goCmd) := by cases i <;> simp [plainExchange]
    have := exec_exchange_ph hp he
    simp [ht, hplain] at this
  · have := exec_sync_ph he
    simp [ht] at this
  · have := exec_block_ph hi he
    simp [ht] at this
  · exact hi

/-! ### A step of a session -/

theorem step_selected (hctl : s.ctl = []) (hcall : s.call = none) (hsel : select s = .op i) : step s = exec i s := by
  simp only [step, hctl, runSelected, hcall, hsel]

theorem step_rest (hctl : s.ctl = []) (hcall : s.call = none) (hsel : select s = .rest) : step s = .next s := by
  simp only [step, hctl, runSelected, hcall, hsel]

theorem run_succ_of_step (n : Nat) (h : step s = .next t) : Host.Core.run core (n + 1) s = Host.Core.run core n t := by
  have hc : core.step s = .next t := h
  simp only [Host.Core.run, hc]

theorem step_to_goCmd (hctl : s.ctl = []) (hcall : s.call = none) (h : step s = .next t) (ht : t.ph = .goCmd) :
    s.ph = .fetch ∧ s.img = [] := by
  cases hsel : select s with
  | rest =>
    cases (step_rest hctl hcall hsel).symm.trans h
    rw [select, ht] at hsel
    cases hsel
  | op i =>
    rw [step_selected hctl hcall hsel] at h
    obtain rfl := eq_fetch_of_ph_goCmd hsel h ht
    have hph := select_eq_fetch.1 hsel
    have hfetch := exec_fetch_ph h
    simp only [hph, ht, reduceCtorEq, or_self, or_false, and_true] at hfetch
    exact ⟨hph, hfetch⟩

end

/-! ### An image without a record -/

/-- What a line that is no record leaves alone: everything but the record registers, the trace and the place of the next free
value. -/
theorem runVerdict_of_not_record {v : Verdict} (hv : ∀ a d, v ≠ .record a d) (s : State) : ∃ a n f b m l,
    runVerdict v s = { s with
      recValid := false, recAddr := a, recLen := n, lenField := f, recData := b, draws := m, trace := s.trace ++ l } := by
  cases v with
  | nothing =>
    refine ⟨s.recAddr, s.recLen, s.lenField, s.recData, s.draws, [], ?_⟩
    rw [List.append_nil]
    rfl
  | skip r => exact ⟨_, _, _, _, _, _, rfl⟩
  | record a d => exact absurd rfl (hv a d)

/-- `FETCH` of a line that is no record: the line is consumed and counted, and the record loop goes on (R169, R175). -/
theorem step_fetch_not_record {s : State} {cs : Line} {rest : List Line} (hctl : s.ctl = []) (hcall : s.call = none)
    (hph : s.ph = .fetch) (himg : s.img = cs :: rest) (hlen : cs.length ≤ s.cfg.lineMax)
    (hno : ∀ a d, decodeLine s.cfg.hexLower cs ≠ .record a d) : ∃ a n f b m l,
    step s = .next { s with
      recValid := false, recAddr := a, recLen := n, lenField := f, recData := b, draws := m, trace := s.trace ++ l,
      img := rest, ln := s.ln + 1, lb := cs, lbLen := cs.length } := by
  rw [step_selected hctl hcall (select_eq_fetch.2 hph)]
  rcases exec_fetch_cases s with ⟨hnil, -⟩ | ⟨cs', rest', himg', hline⟩
  · simp [himg] at hnil
  · cases himg.symm.trans himg'
    rcases hline with ⟨hover, -⟩ | ⟨-, he⟩
    · omega
    · obtain ⟨a, n, f, b, m, l, hrun⟩ := runVerdict_of_not_record hno (latchLine cs rest s)
      exact ⟨a, n, f, b, m, .imgNext (some cs) :: l, by rw [he, hrun]; simp [latchLine, State.log]⟩

/-- The lines left are used up one an operation, then `eof` moves to Go. -/
theorem run_image_without_record (ls : List Line) : ∀ s : State, s.img = ls → s.ctl = [] → s.call = none →
    s.ph = .fetch → s.entryValid = false →
    (∀ cs ∈ ls, cs.length ≤ s.cfg.lineMax ∧ ∀ a d, decodeLine s.cfg.hexLower cs ≠ .record a d) →
    ∃ t, Host.Core.run core (ls.length + 1) s = .next t ∧ t.ph = .goCmd ∧ t.entryValid = false ∧ t.tx = s.tx ∧
      t.ln = s.ln + ls.length := by
  induction ls with
  | nil =>
    intro s himg hctl hcall hph hentry _
    have hstep : step s = .next ((s.log (.imgNext none)).goto .goCmd) := by
      rw [step_selected hctl hcall (select_eq_fetch.2 hph), exec, execFetch, himg]
    exact ⟨_, run_succ_of_step 0 hstep, rfl, hentry, rfl, rfl⟩
  | cons cs rest ih =>
    intro s himg hctl hcall hph hentry hlines
    obtain ⟨⟨hlen, hno⟩, hrest⟩ := List.forall_mem_cons.1 hlines
    obtain ⟨a, n, f, b, m, l, hstep⟩ := step_fetch_not_record hctl hcall hph himg hlen hno
    rw [run_succ_of_step _ hstep, List.length_cons, ← Nat.add_assoc, Nat.add_right_comm s.ln]
    exact ih _ rfl hctl hcall hph hentry hrest

/-- Settles O59: only a fetch at `eof` moves to Go, and lines that are no record lead there one by one. -/
theorem goComesOnlyAfterTheImage : Obligations.GoComesOnlyAfterTheImage :=
  ⟨fun _ _ => step_to_goCmd, fun s => run_image_without_record s.img s rfl⟩

end Sys2Proof.Machine
end

section
/-! PROOFS. Encoder and decoder: which words each position takes, and that they are the encoder's words (30_encoding.md R81 to
R84, R88, R91, R92). -/

namespace Sys2Proof

open Sys2Proof.Machine

/-! ### The words of a position -/

section
variable {bs : List Byte} {i : Instr}

theorem decodeUnit_eq_ok : decodeUnit bs = .ok i ↔
    bs = [0x7F] ∧ i = .sync ∨ ∃ c, commandOf c = some i ∧ bs = frame [c] := by
  constructor
  · intro h
    match bs with
    | [] => cases h
    | [b] =>
      simp only [decodeUnit] at h
      split at h
      · next hb =>
        cases h
        exact .inl ⟨by rw [hb]; rfl, rfl⟩
      · cases h
    | [c, k] =>
      simp only [decodeUnit] at h
      split at h
      · next j hj =>
        split at h
        · next hk =>
          cases h
          exact .inr ⟨c, hj, by rw [hk]; rfl⟩
        · cases h
      · cases h
    | _ :: _ :: _ :: _ => cases h
  · rintro (⟨rfl, rfl⟩ | ⟨c, hc, rfl⟩)
    · rfl
    · simp [frame, decodeUnit, hc]

theorem decodeAddr_eq_ok {f : Word → Instr} : decodeAddr f bs = .ok i ↔ ∃ a, bs = frame (be32 a) ∧ i = f a := by
  constructor
  · intro h
    unfold decodeAddr at h
    split at h
    · next b3 b2 b1 b0 k =>
      split at h
      · next hk =>
        cases h
        exact ⟨ofBe32 b3 b2 b1 b0, by rw [be32_ofBe32, hk]; rfl, rfl⟩
      · cases h
    · cases h
  · rintro ⟨a, rfl, rfl⟩
    simp [frame, be32, decodeAddr, ofBe32_be32]

theorem decodeExchange_eq_ok {t : ReplyTimeout} : decodeExchange t bs = .ok i ↔
    ∃ p, 1 ≤ p.length ∧ p.length ≤ 65 ∧ bs = frame p ∧ i = .xchg p t := by
  unfold decodeExchange Config.maxData
  constructor
  · intro h
    split_ifs at h with hl hk
    cases h
    have hne : bs ≠ [] := by rintro rfl; simp at hl
    refine ⟨bs.dropLast, ?_, ?_, (frame_of_checksum hne (not_not.1 hk)).symm, rfl⟩ <;> rw [List.length_dropLast] <;> omega
  · rintro ⟨p, h1, h65, rfl, rfl⟩
    rw [frame_length, if_neg (by omega), frame_getLastD, frame_dropLast]
    exact if_neg (not_not.2 rfl)

theorem decodeDataFrame_eq_ok : decodeDataFrame bs = .ok i ↔
    ∃ d, d.length ≤ 64 ∧ bs = frame (dataPayload d) ∧ i = .wrmemData d := by
  unfold decodeDataFrame Config.maxData
  constructor
  · intro h
    split_ifs at h with hl hk hn
    cases h
    match bs with
    | n :: b :: bs =>
      have hframe := frame_of_checksum (List.cons_ne_nil n (b :: bs)) (not_not.1 hk)
      have hlen : n = lengthByte (b :: bs).dropLast.length := by simpa using hn
      refine ⟨(b :: bs).dropLast, by simp at hl ⊢; omega, ?_, rfl⟩
      rw [dataPayload, ← hlen]
      exact hframe.symm
    | [_] => simp at hl
    | [] => simp at hl
  · rintro ⟨d, hd, rfl, rfl⟩
    have hlen : (frame (dataPayload d)).length = d.length + 2 := by simp [dataPayload]
    rw [hlen, if_neg (by omega), frame_getLastD, frame_dropLast, if_neg (not_not.2 rfl)]
    exact if_neg (not_not.2 rfl)

theorem decodeReply_eq_ok : decodeReply bs = .ok i ↔ bs = [0x79] ∧ i = .ack ∨ ∃ b, b ≠ 0x79 ∧ bs = [b] ∧ i = .nack b := by
  constructor
  · intro h
    match bs with
    | [] => cases h
    | [b] =>
      simp only [decodeReply] at h
      split at h
      · next hb =>
        cases h
        exact .inl ⟨by rw [hb]; rfl, rfl⟩
      · next hb =>
        cases h
        exact .inr ⟨b, hb, rfl, rfl⟩
    | _ :: _ :: _ => cases h
  · rintro (⟨rfl, rfl⟩ | ⟨b, hb, rfl, rfl⟩)
    · rfl
    · exact if_neg hb

end

/-! ### The lines the encoder writes -/

/-- A header written by the encoder is read back: its length field is judged next. -/
theorem decodeLine_header (lower : Bool) (lf a3 a2 a1 a0 : Byte) (body : Line) :
    decodeLine lower ([Config.tagS, Config.tag3] ++ hexOf lf ++ hexOfAll [a3, a2, a1, a0] ++ body) =
      decodeLength lower lf (ofBe32 a3 a2 a1 a0) body := by
  simp [decodeLine, decodeHeader, hexOf, hexOfAll, hexbyte_hexDigits]

theorem decodeLine_recordLine (lower : Bool) (a : Word) {d : List Byte} (hd : d.length ≤ 64) :
    decodeLine lower (recordLine a d) = .record a d := by
  have hlf : (BitVec.ofNat 8 (d.length + Config.lenOverhead)).toNat = d.length + 5 := by
    rw [BitVec.toNat_ofNat, Config.lenOverhead]
    omega
  have hpairs : hexPairs lower d.length (hexOfAll d) = some d := by
    simpa using hexPairs_hexOfAll lower d []
  rw [recordLine, be32, decodeLine_header, ofBe32_be32, decodeLength_inside (by omega) (by omega), hlf, Nat.add_sub_cancel,
    decodeData, hpairs]

/-- Settles O2: each row's word is the one its position takes, and a record line's digits are read back. -/
theorem decodeOfEncodeIsTheOperation : Obligations.DecodeOfEncodeIsTheOperation := by
  intro i lower p bs hwf henc
  cases i <;> cases henc
  case sync | getverCmd | getidCmd | wrmemCmd | goCmd | ack | getverResp | getidResp | rdresp | blank => rfl
  case skipTag | skipHdr => rfl
  case skipLen | skipData => cases lower <;> decide
  case wrmemAddr a => exact decodeAddr_eq_ok.2 ⟨a, rfl, rfl⟩
  case goAddr e => exact decodeAddr_eq_ok.2 ⟨e, rfl, rfl⟩
  case wrmemData d => exact decodeDataFrame_eq_ok.2 ⟨d, wf_wrmemData.1 hwf, rfl, rfl⟩
  case xchg q t =>
    obtain ⟨h1, h65⟩ := wf_xchg.1 hwf
    exact decodeExchange_eq_ok.2 ⟨q, h1, h65, rfl, rfl⟩
  case nack b => exact decodeReply_eq_ok.2 (.inr ⟨b, wf_nack.1 hwf, rfl, rfl⟩)
  case record a d => rw [decode, decodeLine_recordLine lower a (wf_record.1 hwf), Verdict.form]

/-- Settles O3, position by position: the words it takes are frames of well-formed operations. -/
theorem decodedFramesAreEncodings : Obligations.DecodedFramesAreEncodings := by
  intro lower p bs i hp h
  rcases hp with rfl | rfl | rfl | rfl | rfl | ⟨t, rfl⟩
  · rcases decodeUnit_eq_ok.1 h with ⟨rfl, rfl⟩ | ⟨c, hc, rfl⟩
    · exact ⟨rfl, rfl⟩
    · rcases commandOf_eq_some.1 hc with ⟨rfl, rfl⟩ | ⟨rfl, rfl⟩ | ⟨rfl, rfl⟩ | ⟨rfl, rfl⟩ <;> exact ⟨rfl, rfl⟩
  · obtain ⟨a, rfl, rfl⟩ := decodeAddr_eq_ok.1 h
    exact ⟨rfl, rfl⟩
  · obtain ⟨d, hd, rfl, rfl⟩ := decodeDataFrame_eq_ok.1 h
    exact ⟨wf_wrmemData.2 hd, rfl⟩
  · obtain ⟨e, rfl, rfl⟩ := decodeAddr_eq_ok.1 h
    exact ⟨rfl, rfl⟩
  · rcases decodeReply_eq_ok.1 h with ⟨rfl, rfl⟩ | ⟨b, hb, rfl, rfl⟩
    · exact ⟨rfl, rfl⟩
    · exact ⟨wf_nack.2 hb, rfl⟩
  · obtain ⟨q, h1, h65, rfl, rfl⟩ := decodeExchange_eq_ok.1 h
    exact ⟨wf_xchg.2 ⟨h1, h65⟩, rfl⟩

end Sys2Proof
end

section
/-! PROOFS. Sample words, and the values of hex digits (30_encoding.md sections 1 and 2; 95_test_vectors.md sections 3 and 4). -/

namespace Sys2Proof

open Sys2Proof.Machine

/-- Settles O1, word by word: the decoder is run. -/
theorem sampleWordsDecode : Obligations.SampleWordsDecode := by
  unfold Obligations.SampleWordsDecode
  decide

section
variable {lower : Bool} {c : Byte}

/-- The tests of `hexval` on the character's number. -/
theorem hexval_eq : hexval lower c =
    if 0x30 ≤ c.toNat ∧ c.toNat ≤ 0x39 then some (c - 0x30)
    else if 0x41 ≤ c.toNat ∧ c.toNat ≤ 0x46 then some (c - 0x37)
    else if lower = true ∧ 0x61 ≤ c.toNat ∧ c.toNat ≤ 0x66 then some (c - 0x57)
    else none := rfl

end

/-- Settles O9, range by range. -/
theorem hexDigitValues : Obligations.HexDigitValues := by
  refine fun lower c => ⟨fun ⟨hlo, hhi⟩ => ?_, fun ⟨hlo, hhi⟩ => ?_, fun ⟨hlo, hhi⟩ => ?_, fun hne => ?_⟩
  · rw [hexval_eq, if_pos ⟨hlo, hhi⟩, Option.map_some, BitVec.toNat_sub_of_le (BitVec.le_def.2 (by exact hlo))]
    rfl
  · rw [hexval_eq, if_neg (by omega), if_pos ⟨hlo, hhi⟩, Option.map_some,
      BitVec.toNat_sub_of_le (BitVec.le_def.2 (hlo.trans' (by decide)))]
    show some (c.toNat - 0x37) = _
    congr 1
    omega
  · refine ⟨?_, ?_⟩
    · rw [hexval_eq, if_neg (by omega), if_neg (by omega), if_pos ⟨rfl, hlo, hhi⟩, Option.map_some,
        BitVec.toNat_sub_of_le (BitVec.le_def.2 (hlo.trans' (by decide)))]
      show some (c.toNat - 0x57) = _
      congr 1
      omega
    · rw [hexval_eq, if_neg (by omega), if_neg (by omega), if_neg (by simp)]
  · rw [hexval_eq] at hne
    split_ifs at hne with h9 hF hf
    · exact .inl h9
    · exact .inr (.inl hF)
    · exact .inr (.inr hf)
    · exact absurd rfl hne

end Sys2Proof
end

section
/-! PROOFS. Image lines by character position: the six forms, a record's operands, and what is never read (30_encoding.md R85,
R90, R93, R97). -/

namespace Sys2Proof

open Sys2Proof.Machine Sys2Proof.Safety

section
variable {lower : Bool} {cs cs' : Line} {a : Word} {d : List Byte}

/-- The verdict on a line whose length field is that of `n` data bytes. -/
theorem decodeLine_lengthOk {n : Nat} (hh : headed lower cs) (hn : lengthOk lower cs n) :
    ∃ a, decodeLine lower cs = decodeData lower a n (cs.drop 12) := by
  obtain ⟨h64, hlf⟩ := hn
  obtain ⟨a, he⟩ := decodeLine_lengthField hh hlf
  have hnat : (BitVec.ofNat 8 (n + 5)).toNat = n + 5 := by
    rw [BitVec.toNat_ofNat]
    omega
  exact ⟨a, by rw [he, decodeLength_inside (by omega) (by omega), hnat, Nat.add_sub_cancel]⟩

/-- No length is that of the length field: the test on integers fails. -/
theorem decodeLine_not_lengthOk (hh : headed lower cs) (hno : ¬ ∃ n, lengthOk lower cs n) :
    decodeLine lower cs = .skip .len := by
  obtain ⟨lf, a, hlf, -, -, -, -, -, he⟩ := decodeLine_headed hh
  rcases decodeLength_cases lower lf a (cs.drop 12) with ⟨-, hs⟩ | ⟨n, h64, hn, -, -⟩
  · rw [he, hs]
  · exact absurd ⟨n, h64, by rw [hlf, hn]⟩ hno

theorem exists_lengthOk_iff {n : Nat} {P : Nat → Prop} (hn : lengthOk lower cs n) :
    (∃ m, lengthOk lower cs m ∧ P m) ↔ P n :=
  ⟨fun ⟨_, hm, h⟩ => lengthOk_unique hm hn ▸ h, fun h => ⟨n, hn, h⟩⟩

/-- The verdict on a line with header and length field is by the characters of the data field. -/
theorem decodeLine_data_cases {n : Nat} (hh : headed lower cs) (hn : lengthOk lower cs n) :
    (decodeLine lower cs = .skip .data ∧ ∃ i, 12 ≤ i ∧ i < 12 + 2 * n ∧ ¬ digitAt lower cs i) ∨
    ((∃ a d, decodeLine lower cs = .record a d) ∧ ∀ i, 12 ≤ i → i < 12 + 2 * n → digitAt lower cs i) := by
  obtain ⟨a, he⟩ := decodeLine_lengthOk hh hn
  rw [he, decodeData]
  cases hp : hexPairs lower n (cs.drop 12) with
  | none => exact .inl ⟨rfl, hexPairs_drop_eq_none.1 hp⟩
  | some d =>
    refine .inr ⟨⟨a, d, rfl⟩, fun i hlo hhi => by_contra fun hi => ?_⟩
    have := hexPairs_drop_eq_none.2 ⟨i, hlo, hhi, hi⟩
    rw [hp] at this
    cases this

/-- Four bytes have one address. -/
theorem word_ext {a b : Word} (h3 : a.extractLsb' 24 8 = b.extractLsb' 24 8) (h2 : a.extractLsb' 16 8 = b.extractLsb' 16 8)
    (h1 : a.extractLsb' 8 8 = b.extractLsb' 8 8) (h0 : a.extractLsb' 0 8 = b.extractLsb' 0 8) : a = b := by
  rw [← ofBe32_be32 a, ← ofBe32_be32 b, h3, h2, h1, h0]

/-- A record by position, in both directions: header, length field, address bytes and data pairs (R85, R90). -/
theorem decodeLine_eq_record : decodeLine lower cs = .record a d ↔
    headed lower cs ∧ lengthOk lower cs d.length ∧
    (byteAt lower cs 4 = some (a.extractLsb' 24 8) ∧ byteAt lower cs 6 = some (a.extractLsb' 16 8) ∧
      byteAt lower cs 8 = some (a.extractLsb' 8 8) ∧ byteAt lower cs 10 = some (a.extractLsb' 0 8)) ∧
    12 + 2 * d.length ≤ cs.length ∧ ∀ i, i < d.length → byteAt lower cs (12 + 2 * i) = d[i]? := by
  have hdata : hexPairs lower d.length (cs.drop 12) = some d ↔
      2 * d.length ≤ cs.length - 12 ∧ ∀ i, i < d.length → byteAt lower cs (12 + 2 * i) = d[i]? := by
    rw [hexPairs_eq_some, List.length_drop]
    simp only [true_and, byteAt, List.getD_eq_getElem?_getD, List.getElem?_drop, Nat.add_assoc]
  constructor
  · intro h
    obtain ⟨hh, h64, hp⟩ := decodeLine_record h
    obtain ⟨lf, b, hlf, hb3, hb2, hb1, hb0, h12, he⟩ := decodeLine_headed hh
    obtain ⟨hlen, hbytes⟩ := hdata.1 hp
    rcases decodeLength_cases lower lf b (cs.drop 12) with ⟨-, hs⟩ | ⟨n, -, hn, -, hd⟩
    · cases h.symm.trans (he.trans hs)
    · have hrec := hd.symm.trans (he.symm.trans h)
      obtain rfl := decodeData_record_length hrec
      rw [decodeData, hp] at hrec
      cases hrec
      exact ⟨hh, ⟨h64, by rw [hlf, hn]⟩, ⟨hb3, hb2, hb1, hb0⟩, by omega, hbytes⟩
  · rintro ⟨hh, ⟨h64, hlen⟩, ⟨ha3, ha2, ha1, ha0⟩, hend, hbytes⟩
    obtain ⟨lf, b, hlf, hb3, hb2, hb1, hb0, h12, he⟩ := decodeLine_headed hh
    obtain rfl : a = b := word_ext (Option.some.inj (ha3.symm.trans hb3)) (Option.some.inj (ha2.symm.trans hb2))
      (Option.some.inj (ha1.symm.trans hb1)) (Option.some.inj (ha0.symm.trans hb0))
    obtain rfl : BitVec.ofNat 8 (d.length + 5) = lf := Option.some.inj (hlen.symm.trans hlf)
    have hnat : (BitVec.ofNat 8 (d.length + 5)).toNat = d.length + 5 := by
      rw [BitVec.toNat_ofNat]
      omega
    have hp := hdata.2 ⟨by omega, hbytes⟩
    rw [he, decodeLength_inside (by omega) (by omega), hnat, Nat.add_sub_cancel, decodeData, hp]

/-! ### A line and its beginning -/

/-- Two lines agree on their first `k` characters. -/
def agreeTo (k : Nat) (cs cs' : Line) : Prop := k ≤ cs.length ∧ k ≤ cs'.length ∧ ∀ i, i < k → cs.getD i 0 = cs'.getD i 0

theorem agreeTo_take_append {k : Nat} (rest : Line) (hk : k ≤ cs.length) : agreeTo k cs (cs.take k ++ rest) := by
  have hlen : (cs.take k).length = k := by
    rw [List.length_take]
    omega
  refine ⟨hk, ?_, fun i hi => ?_⟩
  · rw [List.length_append]
    omega
  · rw [List.getD_eq_getElem?_getD, List.getD_eq_getElem?_getD, List.getElem?_append_left (by omega),
      List.getElem?_take_of_lt hi]

theorem agreeTo.byteAt {k i : Nat} (h : agreeTo k cs cs') (hi : i + 1 < k) : byteAt lower cs i = byteAt lower cs' i := by
  obtain ⟨-, -, heq⟩ := h
  rw [Safety.byteAt, Safety.byteAt, heq i (by omega), heq (i + 1) hi]

theorem agreeTo.headed {k : Nat} (h : agreeTo k cs cs') (hk : 12 ≤ k) (hh : headed lower cs) : headed lower cs' := by
  obtain ⟨-, hlen, heq⟩ := h
  obtain ⟨⟨-, h0, h1⟩, hdigits⟩ := hh
  refine ⟨⟨by omega, ?_, ?_⟩, fun i hlo hhi => ⟨by omega, ?_⟩⟩
  · rw [← heq 0 (by omega), h0]
  · rw [← heq 1 (by omega), h1]
  · rw [← heq i (by omega)]
    exact (hdigits i hlo hhi).2

/-- The record's verdict is by the characters up to the end of its data field. -/
theorem decodeLine_record_of_agreeTo (h : decodeLine lower cs = .record a d) (heq : agreeTo (12 + 2 * d.length) cs cs') :
    decodeLine lower cs' = .record a d := by
  obtain ⟨hh, ⟨h64, hlen⟩, ⟨h3, h2, h1, h0⟩, -, hbytes⟩ := decodeLine_eq_record.1 h
  refine decodeLine_eq_record.2 ⟨heq.headed (by omega) hh, ⟨h64, ?_⟩, ⟨?_, ?_, ?_, ?_⟩, heq.2.1, fun i hi => ?_⟩
  · rw [← heq.byteAt (by omega), hlen]
  · rw [← heq.byteAt (by omega), h3]
  · rw [← heq.byteAt (by omega), h2]
  · rw [← heq.byteAt (by omega), h1]
  · rw [← heq.byteAt (by omega), h0]
  · rw [← heq.byteAt (by omega), hbytes i hi]

end

/-- Settles O4: the tests in their order, each deciding the verdict and with it all six rows. -/
theorem lineFormsByPosition : Obligations.LineFormsByPosition := by
  intro lower cs
  by_cases hne : cs = []
  · subst hne
    simp [decodeLine_nil, tagged, headed]
  have hlen : cs.length ≠ 0 := mt List.length_eq_zero_iff.1 hne
  by_cases ht : tagged cs
  case neg => simp [decodeLine_untagged hne ht, headed, ht, hne]
  by_cases hh : headed lower cs
  case neg => simp [decodeLine_unheaded ht hh, hh, ht, hne]
  by_cases hn : ∃ n, lengthOk lower cs n
  case neg =>
    have hno : ∀ P : Nat → Prop, ¬ ∃ n, lengthOk lower cs n ∧ P n := fun P ⟨n, h, _⟩ => hn ⟨n, h⟩
    simp [decodeLine_not_lengthOk hh hn, hh, ht, hne, hn, hno]
  obtain ⟨n, hn⟩ := hn
  have hex : ∃ n, lengthOk lower cs n := ⟨n, hn⟩
  rw [exists_lengthOk_iff hn, exists_lengthOk_iff hn]
  rcases decodeLine_data_cases hh hn with ⟨hv, i, hlo, hhi, hi⟩ | ⟨⟨a, d, hv⟩, hall⟩
  · have hnot : ¬ ∀ i, 12 ≤ i → i < 12 + 2 * n → digitAt lower cs i := fun h => hi (h i hlo hhi)
    have hsome : ∃ i, 12 ≤ i ∧ i < 12 + 2 * n ∧ ¬ digitAt lower cs i := ⟨i, hlo, hhi, hi⟩
    simp only [hv, hh, ht, hlen, hex, hnot, hsome]
    simp
  · have hnone : ¬ ∃ i, 12 ≤ i ∧ i < 12 + 2 * n ∧ ¬ digitAt lower cs i := fun ⟨i, hlo, hhi, hi⟩ => hi (hall i hlo hhi)
    have hrec : ∃ a d, decodeLine lower cs = .record a d := ⟨a, d, hv⟩
    refine ⟨?_, ?_, ?_, ?_, ?_, iff_of_true hrec ⟨hh, hall⟩⟩ <;> simp only [hv, hh, ht, hlen, hex, hnone] <;> simp

/-- Settles O6, the record by position read forwards. -/
theorem recordOperandsByPosition : Obligations.RecordOperandsByPosition := by
  intro lower cs a d h
  obtain ⟨-, ⟨h64, hlf⟩, ⟨h3, h2, h1, h0⟩, hend, hbytes⟩ := decodeLine_eq_record.1 h
  exact ⟨h64, hend, hlf, h3, h2, h1, h0, hbytes⟩

/-- Settles O7: the other line agrees with the record's up to the end of the data field. -/
theorem restOfLineIsNeverRead : Obligations.RestOfLineIsNeverRead := by
  intro lower cs rest a d h
  obtain ⟨-, -, -, hend, -⟩ := decodeLine_eq_record.1 h
  exact decodeLine_record_of_agreeTo h (agreeTo_take_append rest hend)

end Sys2Proof
end

section
/-! PROOFS. One operation of a session, said once: what the operation that `PH` selects can do, by the phase (43_orchestrator.md
R160 to R178), and what a step can do. -/

namespace Sys2Proof.Machine

open Sys2Proof.Safety

/-! ### What an operation's requests leave -/

/-- What the requests of one operation leave: `ATT`, `CKS`, `OUTCOME`, the answers still to come, the bytes the transport
took and the requests made. -/
structure Requests where
  att : Nat
  cks : Byte
  outcomeValid : Bool
  outcome : ExchangeOutcome
  txIn : List TxAnswer
  rxIn : List RxEvent
  draws : Nat
  sent : List Byte
  events : List Event

/-- The state when an operation's requests are made, and nothing else is done yet. -/
def State.after (s : State) (r : Requests) : State :=
  { s with
    att := r.att
    cks := r.cks
    outcomeValid := r.outcomeValid
    outcome := r.outcome
    txIn := r.txIn
    rxIn := r.rxIn
    draws := r.draws
    tx := s.tx ++ r.sent
    trace := s.trace ++ r.events }

/-- What the operation of a phase sends if every write is taken: after `n` attempts the sync bytes, else the phase's frame. -/
def phaseBytes (n : Nat) (s : State) : List Byte :=
  match s.ph with
  | .sync => List.replicate n 0x7F
  | .getverCmd => [0x01, 0xFE]
  | .getidCmd => [0x02, 0xFD]
  | .wrCmd => [0x31, 0xCE]
  | .wrAddr => frame (be32 (heldAddr s))
  | .wrData => frame (dataPayload (heldBytes s))
  | .goCmd => [0x21, 0xDE]
  | .goAddr => frame (be32 (entryOperand s))
  | .idle | .getverResp | .getidResp | .fetch | .done | .fail => []

/-- How many `TxWrite` requests it makes when it goes on. -/
def phaseWrites (n : Nat) : Phase → Nat
  | .sync => n
  | .getverCmd | .getidCmd | .wrCmd | .wrAddr | .wrData | .goCmd | .goAddr => 2
  | .idle | .getverResp | .getidResp | .fetch | .done | .fail => 0

/-- How many `RxRead` requests it makes when it goes on. -/
def phaseReads (n : Nat) : Phase → Nat
  | .sync => n
  | .getverCmd | .getidCmd | .wrCmd | .wrAddr | .wrData | .goCmd | .goAddr | .getverResp | .getidResp => 1
  | .idle | .fetch | .done | .fail => 0

/-- What holds of the requests that the operation of the phase of `s` makes. -/
structure Requests.Of (r : Requests) (s : State) : Prop where
  noRelease : Event.release ∉ r.events
  attempts : r.att ≤ s.cfg.maxAttempts ∨ r.att = s.att
  attKept : s.ph ≠ .sync → r.att = s.att
  bytes : writesOk r.events → r.sent = phaseBytes r.att s

/-- The requests of an operation that goes on: as many as its rule says. -/
structure Requests.Complete (r : Requests) (s : State) : Prop extends r.Of s where
  writes : r.events.countP isTxWrite = phaseWrites r.att s.ph
  reads : r.events.countP isRxRead = phaseReads r.att s.ph

/-! ### The operation of a phase -/

/-- The phases whose operation, when it goes on, only moves, and where it moves to. -/
def moveOf : Phase → Option Phase
  | .sync => some .getverCmd
  | .getverCmd => some .getverResp
  | .getidCmd => some .getidResp
  | .wrCmd => some .wrAddr
  | .wrAddr => some .wrData
  | .goCmd => some .goAddr
  | .idle | .getverResp | .getidResp | .fetch | .wrData | .goAddr | .done | .fail => none

/-- Everything the operation of the phase of `s` can do. -/
inductive Effect (s : State) : State → Prop
  /-- `SYNC` and the five exchanges that only move (R115, R162, R165, R170, R171, R176) -/
  | moved {r : Requests} {q : Phase} (hr : r.Complete s) (hq : moveOf s.ph = some q) : Effect s ((s.after r).goto q)
  /-- the version is read (R164) -/
  | version {r : Requests} (x : Vector Byte 4) (hr : r.Complete s) (hp : s.ph = .getverResp) :
    Effect s ((latchVersion ((s.after r).setResp x)).goto .getidCmd)
  /-- the product ID is read, and there is an image (R166, R167) -/
  | product {r : Requests} (x : Vector Byte 4) (hr : r.Complete s) (hp : s.ph = .getidResp) (himg : s.imgPresent = true) :
    Effect s ((latchProductId ((s.after r).setResp x)).goto .fetch)
  /-- the product ID is read, and there is none (R167) -/
  | identified {r : Requests} (x : Vector Byte 4) (hr : r.Complete s) (hp : s.ph = .getidResp)
    (himg : s.imgPresent = false) : Effect s (finished (latchProductId ((s.after r).setResp x)))
  /-- the image is at its end (R169) -/
  | eof (hp : s.ph = .fetch) (himg : s.img = []) : Effect s ((s.log (.imgNext none)).goto .goCmd)
  /-- a line is fetched (R169) -/
  | line {cs : Line} {rest : List Line} (hp : s.ph = .fetch) (himg : s.img = cs :: rest)
    (hlen : cs.length ≤ s.cfg.lineMax) : Effect s (runVerdict (decodeLine s.cfg.hexLower cs) (latchLine cs rest s))
  /-- the record is written (R172 to R174) -/
  | wrote {r : Requests} (hr : r.Complete s) (hp : s.ph = .wrData) (ho : r.outcome = .acknowledged) :
    Effect s ((latchEntry (memWrite (heldBytes s) (s.after r))).goto .fetch)
  /-- the target runs (R177, R178) -/
  | jumped {r : Requests} (hr : r.Complete s) (hp : s.ph = .goAddr) : Effect s (finished (s.after r))
  /-- a fatal condition (R161, R163; 60_exceptions.md R200) -/
  | failed {r : Requests} {c : FailClass} (hr : r.Of s) (hc : fatalPair s.ph c = true) :
    Effect s (aborted s.ph c (kindOf c) (s.after r))

section
variable {s : State} {i : Instr}

/-- The phases that select an exchange send its frame, fail with the three classes of `CHECK`, and move as it does. -/
theorem select_exchange {p : List Byte} (hp : exchangePayload i = some p) (hsel : select s = .op i) :
    (∀ n, phaseBytes n s = frame p) ∧ (∀ n, phaseWrites n s.ph = 2 ∧ phaseReads n s.ph = 1) ∧ s.ph ≠ .sync ∧
    (∀ c, c = .nack ∨ c = .timeout ∨ c = .io → fatalPair s.ph c = true) ∧
    (∀ q, plainExchange i = some (p, q) → moveOf s.ph = some q) ∧
    (∀ d, i = .wrmemData d → s.ph = .wrData ∧ d = heldBytes s) ∧ (∀ e, i = .goAddr e → s.ph = .goAddr) := by
  cases hph : s.ph <;> simp only [select, hph, Selection.op.injEq, reduceCtorEq] at hsel <;> subst hsel <;>
    cases hp <;> simp [phaseBytes, hph, phaseWrites, phaseReads, plainExchange, moveOf, fatalPair, frame, cks_single]

theorem exec_exchange_effect {p : List Byte} (hp : exchangePayload i = some p) (hsel : select s = .op i) :
    ∃ t, exec i s = .next t ∧ Effect s t := by
  obtain ⟨hbytes, hcount, hsync, hfatal, hmove, hdata, hgo⟩ := select_exchange hp hsel
  obtain ⟨k, o, out, txs, rxs, n, l, hl, -, hout, h⟩ := exec_exchange_cases hp s
  let r : Requests := ⟨s.att, k, true, o, txs, rxs, n, out, l⟩
  have hof : r.Of s := ⟨hl, .inr rfl, fun _ => rfl, fun hw => (hout hw).trans (hbytes _).symm⟩
  rcases h with ⟨ho, hw, hr, h⟩ | ⟨c, hc, he⟩
  · have hcomplete : r.Complete s := ⟨hof, hw.trans (hcount _).1.symm, hr.trans (hcount _).2.symm⟩
    rcases h with ⟨q, hq, he⟩ | ⟨d, hi, -, he⟩ | ⟨e, hi, -, he⟩
    · exact ⟨_, he, .moved hcomplete (hmove q hq)⟩
    · obtain ⟨hph, rfl⟩ := hdata d hi
      exact ⟨_, he, .wrote hcomplete hph ho⟩
    · exact ⟨_, he, .jumped hcomplete (hgo e hi)⟩
  · exact ⟨_, he, .failed hof (hfatal c (classOf_pair hc))⟩

theorem exec_sync_effect (hph : s.ph = .sync) : ∃ t, exec .sync s = .next t ∧ Effect s t := by
  obtain ⟨j, out, txs, rxs, n, l, hj, hl, hout, h⟩ := exec_sync_cases s
  let r : Requests := ⟨j, s.cks, s.outcomeValid, s.outcome, txs, rxs, n, out, l⟩
  have hof : r.Of s := ⟨hl, .inl hj, fun hne => absurd hph hne, fun hw => by rw [phaseBytes, hph]; exact hout hw⟩
  rcases h with ⟨he, hw, hr⟩ | ⟨c, hc, he⟩
  · exact ⟨_, he, .moved (r := r) ⟨hof, by rw [hph]; exact hw, by rw [hph]; exact hr⟩ (by rw [hph]; rfl)⟩
  · have hpair : fatalPair s.ph c = true ∧ kindOf c = .link := by
      rw [hph]
      rcases hc with rfl | rfl <;> exact ⟨rfl, rfl⟩
    have hfail := Effect.failed hof hpair.1
    rw [hph, hpair.2] at hfail
    exact ⟨_, he, hfail⟩

/-- The requests of a response read: one read, nothing sent. -/
def blockRequests (s : State) (rxs : List RxEvent) (m : Nat) (a : RxAnswer) : Requests :=
  ⟨s.att, s.cks, s.outcomeValid, s.outcome, s.txIn, rxs, m, [], [.rxRead 4 s.cfg.tResp a]⟩

theorem after_blockRequests (rxs : List RxEvent) (m : Nat) (a : RxAnswer) : s.after (blockRequests s rxs m a) =
    { s with rxIn := rxs, draws := m, trace := s.trace ++ [.rxRead 4 s.cfg.tResp a] } := by
  simp [State.after, blockRequests]

theorem after_blockRequests_setResp (rxs : List RxEvent) (m : Nat) (a : RxAnswer) (x : Vector Byte 4) :
    (s.after (blockRequests s rxs m a)).setResp x =
      { s with resp := x, rxIn := rxs, draws := m, trace := s.trace ++ [.rxRead 4 s.cfg.tResp a] } := by
  rw [after_blockRequests]
  rfl

theorem blockRequests_complete (hp : s.ph = .getverResp ∨ s.ph = .getidResp) (rxs : List RxEvent) (m : Nat)
    (a : RxAnswer) : (blockRequests s rxs m a).Complete s := by
  rcases hp with hp | hp <;>
    exact ⟨⟨by simp [blockRequests], .inr rfl, fun _ => rfl, fun _ => by simp [blockRequests, phaseBytes, hp]⟩,
      by rw [hp]; rfl, by rw [hp]; rfl⟩

theorem exec_response_effect (hi : i = .getverResp ∧ s.ph = .getverResp ∨ i = .getidResp ∧ s.ph = .getidResp) :
    ∃ t, exec i s = .next t ∧ Effect s t := by
  obtain ⟨rxs, m, a, h⟩ := exec_response_cases (hi.imp And.left fun h => .inl h.1) s
  have hcomplete := blockRequests_complete (hi.imp And.right And.right) rxs m a
  have hfatal : fatalPair s.ph .timeout = true ∧ fatalPair s.ph .io = true := by
    rcases hi with ⟨-, hp⟩ | ⟨-, hp⟩ <;> rw [hp] <;> exact ⟨rfl, rfl⟩
  simp only [← after_blockRequests_setResp] at h
  rcases h with ⟨bs, -, -, h⟩ | he | he
  · rcases hi with ⟨rfl, hp⟩ | ⟨rfl, hp⟩
    · rcases h with ⟨-, he⟩ | ⟨hi, -⟩ | ⟨hi, -⟩ <;> [skip; cases hi; cases hi]
      exact ⟨_, he, .version (respOf bs) hcomplete hp⟩
    · rcases h with ⟨hi, -⟩ | ⟨-, he⟩ | ⟨hi, -⟩ <;> [cases hi; skip; cases hi]
      refine ⟨_, he, ?_⟩
      rcases Bool.eq_false_or_eq_true s.imgPresent with himg | himg
      · rw [afterIdentify_image (by exact himg)]
        exact .product (respOf bs) hcomplete hp himg
      · rw [afterIdentify_noImage (by exact himg)]
        exact .identified (respOf bs) hcomplete hp himg
  · exact ⟨_, he, .failed hcomplete.toOf hfatal.1⟩
  · exact ⟨_, he, .failed hcomplete.toOf hfatal.2⟩

theorem exec_fetch_effect (hph : s.ph = .fetch) : (∃ t, exec .fetch s = .next t ∧ Effect s t) ∨
    exec .fetch s = .refused .lineTooLong ∧ ∃ cs rest, s.img = cs :: rest ∧ s.cfg.lineMax < cs.length := by
  rcases exec_fetch_cases s with ⟨himg, he⟩ | ⟨cs, rest, himg, ⟨hlen, he⟩ | ⟨hlen, he⟩⟩
  · exact .inl ⟨_, he, .eof hph himg⟩
  · exact .inr ⟨he, cs, rest, himg, hlen⟩
  · exact .inl ⟨_, he, .line hph himg hlen⟩

theorem select_eq_sync : select s = .op .sync ↔ s.ph = .sync := by
  unfold select
  cases s.ph <;> simp

theorem select_eq_getverResp : select s = .op .getverResp ↔ s.ph = .getverResp := by
  unfold select
  cases s.ph <;> simp

theorem select_eq_getidResp : select s = .op .getidResp ↔ s.ph = .getidResp := by
  unfold select
  cases s.ph <;> simp

/-- The operation a phase selects has an effect of that phase, or it is a fetch of a line over `LINE_MAX`. -/
theorem exec_selected (hsel : select s = .op i) : (∃ t, exec i s = .next t ∧ Effect s t) ∨
    exec i s = .refused .lineTooLong ∧ s.ph = .fetch ∧ ∃ cs rest, s.img = cs :: rest ∧ s.cfg.lineMax < cs.length := by
  rcases select_cases hsel with ⟨p, hp⟩ | rfl | hi | rfl
  · exact .inl (exec_exchange_effect hp hsel)
  · exact .inl (exec_sync_effect (select_eq_sync.1 hsel))
  · rcases hi with rfl | rfl
    · exact .inl (exec_response_effect (.inl ⟨rfl, select_eq_getverResp.1 hsel⟩))
    · exact .inl (exec_response_effect (.inr ⟨rfl, select_eq_getidResp.1 hsel⟩))
  · have hph := select_eq_fetch.1 hsel
    rcases exec_fetch_effect hph with h | ⟨he, h⟩
    · exact .inl h
    · exact .inr ⟨he, hph, h⟩

theorem effect_of_exec {t : State} (hsel : select s = .op i) (he : exec i s = .next t) : Effect s t := by
  rcases exec_selected hsel with ⟨u, hu, h⟩ | ⟨hr, -⟩
  · cases he.symm.trans hu
    exact h
  · cases he.symm.trans hr

/-- An operation is selected exactly in a session. -/
theorem select_rest_iff : select s = .rest ↔ inSession s.ph = false := by
  unfold select
  cases s.ph <;> simp [inSession]

end

/-! ### One step -/

/-- Everything a step can do when no operation is called by itself. -/
inductive StepEffect (s : State) : State → Prop
  | reset {cs : List Ctl} (hctl : s.ctl = .reset :: cs) (hp : inSession s.ph = false) :
    StepEffect s (resetRegs { s with ctl := cs })
  | started {image : Option (List Line)} {cs : List Ctl} (hctl : s.ctl = .start image :: cs) (hp : s.ph = .idle) :
    StepEffect s { s with
      ctl := cs, img := image.getD s.img, imgPresent := image.isSome, held := true, ln := 0, ph := .sync }
  /-- a `START` outside `IDLE` is passed over, and a resting phase rests -/
  | rested (hctl : s.ctl.head? ≠ some .reset) (hp : inSession s.ph = false ∨ s.ctl ≠ []) :
    StepEffect s { s with ctl := s.ctl.tail }
  | ran {cs : List Ctl} {t : State} (hctl : s.ctl = .quiet :: cs ∨ s.ctl = [] ∧ cs = [])
    (h : Effect { s with ctl := cs } t) : StepEffect s t

theorem step_effect {s t : State} (hcall : s.call = none) (h : step s = .next t) : StepEffect s t := by
  rcases step_cases hcall h with ⟨cs, hctl, hp, rfl⟩ | ⟨image, cs, hctl, ⟨hp, rfl⟩ | ⟨-, rfl⟩⟩ |
    ⟨cs, hctl, ⟨hsel, rfl⟩ | ⟨i, hsel, he⟩⟩
  · exact .reset hctl hp
  · exact .started hctl hp
  · have hrest := StepEffect.rested (s := s) (by simp [hctl]) (.inr (by simp [hctl]))
    rwa [hctl] at hrest
  · have htail : cs = s.ctl.tail := by rcases hctl with hctl | ⟨hctl, rfl⟩ <;> simp [hctl]
    rw [htail]
    refine .rested ?_ (.inl (select_rest_iff.1 hsel))
    rcases hctl with hctl | ⟨hctl, -⟩ <;> simp [hctl]
  · exact .ran hctl (effect_of_exec (s := { s with ctl := cs }) hsel he)

end Sys2Proof.Machine
end

section
/-! PROOFS. The invariant of a run: what each part of an operation keeps of it, then every step (10_state.md R20 to R43;
60_exceptions.md R191 to R203). -/

namespace Sys2Proof.Machine

open Sys2Proof.Safety

theorem count_release_of_not_mem {l : List Event} (h : Event.release ∉ l) : l.count .release = 0 :=
  List.count_eq_zero.2 h

theorem terminal_of_inSession {p : Phase} (h : inSession p = true) : terminal p = false ∧ p ≠ .done ∧ p ≠ .fail := by
  cases p <;> simp_all [inSession, terminal]

/-- What the table of phases keeps on a plain move. -/
theorem moveOf_keeps {p q : Phase} (h : moveOf p = some q) : inSession p = true ∧ inSession q = true ∧
    (inRecord q = true → inRecord p = true) ∧ (inLoad q = true → inLoad p = true) ∧
    (afterVersion q = true → afterVersion p = true) ∧ (beforeLoad q = true → beforeLoad p = true) := by
  cases p <;> cases h <;> simp [inSession, inRecord, inLoad, afterVersion, beforeLoad]

theorem inSession_of_fatalPair {p : Phase} {c : FailClass} (h : fatalPair p c = true) : inSession p = true := by
  cases p <;> simp_all [fatalPair, inSession]

theorem effect_inSession {s t : State} (he : Effect s t) : inSession s.ph = true := by
  cases he with
  | moved _ hq => exact (moveOf_keeps hq).1
  | version _ _ hp => rw [hp]; rfl
  | product _ _ hp _ => rw [hp]; rfl
  | identified _ _ hp _ => rw [hp]; rfl
  | eof hp _ => rw [hp]; rfl
  | line hp _ _ => rw [hp]; rfl
  | wrote _ hp _ => rw [hp]; rfl
  | jumped _ hp => rw [hp]; rfl
  | failed _ hc => exact inSession_of_fatalPair hc

section
variable {s u : State}

/-! ### The parts of an operation -/

/-- Nothing is released in a session. -/
theorem inv_count_release (h : Inv u) (hu : inSession u.ph = true) : u.trace.count .release = 0 := by
  rw [h.released, (terminal_of_inSession hu).1]
  rfl

theorem inv_ctl (h : Inv s) (cs : List Ctl) : Inv { s with ctl := cs } := { h with }

theorem inv_after {r : Requests} (h : Inv s) (hs : inSession s.ph = true) (hr : r.Of s) : Inv (s.after r) :=
  { h with
    attempts := by
      rcases hr.attempts with hle | heq
      · exact hle
      · exact heq.trans_le h.attempts
    released := by
      show (s.trace ++ r.events).count .release = _
      rw [List.count_append, count_release_of_not_mem hr.noRelease]
      exact h.released
    releasedLast := fun ht => absurd ((terminal_of_inSession hs).1.symm.trans ht) (by simp) }

/-- A move within a session, to a phase whose own clauses hold already. -/
theorem inv_goto {q : Phase} (h : Inv u) (hu : inSession u.ph = true) (hq : inSession q = true)
    (hrec : inRecord q = true → u.recValid = true) (himg : inLoad q = true → u.imgPresent = true)
    (hver : afterVersion q = true → u.verValid = true) (hpid : inLoad q = true → u.pidValid = true)
    (hw : beforeLoad q = true → u.wlog = []) : Inv (u.goto q) := by
  obtain ⟨huterm, -, hufail⟩ := terminal_of_inSession hu
  obtain ⟨hqterm, hqdone, hqfail⟩ := terminal_of_inSession hq
  exact { h with
    recordHeld := hrec
    imageHeld := himg
    version := hver
    productId := fun hor => hpid (hor.resolve_right hqdone)
    held := h.held.trans (hu.trans hq.symm)
    noFailure := fun _ => h.noFailure hufail
    failure := fun he => absurd he hqfail
    exitDone := fun he => absurd he hqdone
    exitFail := fun he => absurd he hqfail
    nothingWritten := fun hor => hor.elim hw fun hi => h.nothingWritten (.inr hi)
    released := by
      rw [State.goto_ph, hqterm, State.goto_trace, h.released, huterm]
    releasedLast := fun ht => absurd (hqterm.symm.trans ht) (by simp) }

theorem inv_aborted {c : FailClass} (h : Inv u) (hc : fatalPair u.ph c = true) (hu : inSession u.ph = true) :
    Inv (aborted u.ph c (kindOf c) u) := by
  have hcount := inv_count_release h hu
  exact { h with
    recordHeld := fun he => by cases he
    imageHeld := fun he => by cases he
    version := fun he => by cases he
    productId := fun he => by rcases he with he | he <;> cases he
    held := rfl
    noFailure := fun he => absurd rfl he
    failure := fun _ => ⟨u.ph, rfl, hc, rfl⟩
    exitDone := fun he => by cases he
    exitFail := fun _ => rfl
    exitNeverOne := by simp [aborted]
    nothingWritten := fun he => h.nothingWritten (.inr (he.resolve_left (by simp [aborted, beforeLoad])))
    released := by simp [aborted, hcount, terminal]
    releasedLast := fun _ => by simp [aborted]
    failedRecord := fun p hp hrec => h.recordHeld (by cases hp; exact hrec) }

theorem inv_finished (h : Inv u) (hu : inSession u.ph = true) (hver : u.verValid = true) (hpid : u.pidValid = true) :
    Inv (finished u) := by
  have hcount := inv_count_release h hu
  exact { h with
    recordHeld := fun he => by cases he
    imageHeld := fun he => by cases he
    version := fun _ => hver
    productId := fun _ => hpid
    held := rfl
    noFailure := fun _ => h.noFailure (terminal_of_inSession hu).2.2
    failure := fun he => by cases he
    exitDone := fun _ => rfl
    exitFail := fun he => by cases he
    exitNeverOne := by simp [finished]
    nothingWritten := fun he => h.nothingWritten (.inr (he.resolve_left (by simp [finished, beforeLoad])))
    released := by simp [finished, hcount, terminal]
    releasedLast := fun _ => by simp [finished] }

/-- A request that is no release is logged. -/
theorem inv_log {e : Event} (h : Inv u) (hu : inSession u.ph = true) (he : e ≠ .release) : Inv (u.log e) :=
  { h with
    released := by
      rw [State.log_trace, List.count_append, count_release_of_not_mem (l := [e]) (by simpa using he.symm)]
      exact h.released
    releasedLast := fun ht => absurd ((terminal_of_inSession hu).1.symm.trans ht) (by simp) }

theorem inv_setResp (h : Inv u) (x : Vector Byte 4) : Inv (u.setResp x) := { h with }

theorem inv_latchVersion (h : Inv u) (hu : inSession u.ph = true) : Inv (latchVersion u) :=
  { inv_log h hu (e := .report (.version (versionOf u.resp))) (by simp) with
    version := fun _ => rfl }

theorem inv_latchProductId (h : Inv u) (hu : inSession u.ph = true) : Inv (latchProductId u) :=
  { inv_log h hu (e := .report (.productId (productIdOf u.resp))) (by simp) with
    productId := fun _ => rfl }

theorem inv_latchLine {cs : Line} {rest : List Line} (h : Inv s) (hs : inSession s.ph = true)
    (hlen : cs.length ≤ s.cfg.lineMax) : Inv (latchLine cs rest s) :=
  { inv_log h hs (e := .imgNext (some cs)) (by simp) with
    lineLen := rfl
    lineMax := hlen }

/-- A line's verdict, acted on in `FETCH`: the record registers are those of no record, or of one of at most 64 bytes. -/
theorem inv_runVerdict {v : Verdict} (h : Inv u) (hu : u.ph = .fetch) (hv : ∀ a d, v = .record a d → d.length ≤ 64) :
    Inv (runVerdict v u) := by
  have hs : inSession u.ph = true := by rw [hu]; rfl
  have hnorec : ∀ p, u.failStep = some p → inRecord p = true → False := fun p hp => by
    rw [(h.noFailure (terminal_of_inSession hs).2.2).1] at hp
    cases hp
  have hph : inRecord u.ph = false := by rw [hu]; rfl
  cases v with
  | nothing =>
    exact { h with
      record := fun hr => by cases hr
      recordHeld := fun hr => absurd (hph.symm.trans hr) (by simp)
      failedRecord := fun p hp hr => (hnorec p hp hr).elim }
  | skip r =>
    refine inv_log (u := discardRecord u) ?_ hs (by simp)
    exact { h with
      record := fun hr => by cases hr
      recLenWidth := (Config.freeLen u.draws).isLt
      recordHeld := fun hr => absurd (hph.symm.trans hr) (by simp)
      failedRecord := fun p hp hr => (hnorec p hp hr).elim }
  | record a d =>
    have hd := hv a d rfl
    have hload : inLoad u.ph = true := by rw [hu]; rfl
    refine inv_goto (u := writeRecord a d u) ?_ hs rfl (fun _ => rfl) (fun _ => h.imageHeld hload)
      (fun _ => h.version (by rw [hu]; rfl)) (fun _ => h.productId (.inl hload)) (fun hb => by cases hb)
    exact { h with
      record := fun _ => ⟨hd, by
        show (BitVec.ofNat 8 (d.length + 5)).toNat = d.length + 5
        rw [BitVec.toNat_ofNat]
        omega⟩
      recLenWidth := Nat.lt_of_le_of_lt hd (by decide)
      recordHeld := fun _ => rfl
      failedRecord := fun _ _ _ => rfl }

/-- The write log takes an entry in the record loop, and the first entry is latched. -/
theorem inv_latchEntry_memWrite {d : List Byte} (h : Inv u) (hu : inLoad u.ph = true) :
    Inv (latchEntry (memWrite d u)) := by
  have himg := h.imageHeld hu
  have hload : beforeLoad u.ph = false := by
    revert hu
    cases u.ph <;> simp [inLoad, beforeLoad]
  have hwritten : ∀ t : State, t.ph = u.ph → t.imgPresent = u.imgPresent →
      ¬ (beforeLoad t.ph = true ∨ t.imgPresent = false) := by
    intro t hp hi
    rw [hp, hi, himg, hload]
    simp
  have hwlog : (memWrite d u).wlog = u.wlog ++ [(heldAddr u, d)] := rfl
  unfold latchEntry
  split
  · next hvalid =>
    obtain ⟨d', rest, hrest⟩ := h.entryFirst hvalid
    exact { h with
      entryNone := fun he => absurd (hvalid.symm.trans he) (by simp)
      entryFirst := fun _ => ⟨d', rest ++ [(heldAddr u, d)], by rw [hwlog, hrest]; rfl⟩
      nothingWritten := fun he => absurd he (hwritten _ rfl rfl) }
  · next hvalid =>
    have hnone := h.entryNone (by simpa using hvalid)
    exact { h with
      entryNone := fun he => by cases he
      entryFirst := fun _ => ⟨d, [], by
        show u.wlog ++ [(heldAddr u, d)] = _
        rw [hnone]
        rfl⟩
      nothingWritten := fun he => absurd he (hwritten _ rfl rfl) }

end

/-! ### The operations -/

theorem effect_keeps_inv {s t : State} (h : Inv s) (he : Effect s t) : Inv t := by
  have hs := effect_inSession he
  cases he with
  | @moved r q hr hq =>
    obtain ⟨-, hq', hrec, hload, hver, hbefore⟩ := moveOf_keeps hq
    exact inv_goto (inv_after h hs hr.toOf) hs hq' (fun hx => h.recordHeld (hrec hx)) (fun hx => h.imageHeld (hload hx))
      (fun hx => h.version (hver hx)) (fun hx => h.productId (.inl (hload hx)))
      (fun hx => h.nothingWritten (.inl (hbefore hx)))
  | @version r x hr hp =>
    exact inv_goto (inv_latchVersion (inv_setResp (inv_after h hs hr.toOf) x) hs) hs rfl (fun hx => by cases hx)
      (fun hx => by cases hx) (fun _ => rfl) (fun hx => by cases hx) (fun _ => h.nothingWritten (.inl (by rw [hp]; rfl)))
  | @product r x hr hp himg =>
    exact inv_goto (inv_latchProductId (inv_setResp (inv_after h hs hr.toOf) x) hs) hs rfl (fun hx => by cases hx)
      (fun _ => himg) (fun _ => h.version (by rw [hp]; rfl)) (fun _ => rfl) (fun hx => by cases hx)
  | @identified r x hr hp _ =>
    exact inv_finished (inv_latchProductId (inv_setResp (inv_after h hs hr.toOf) x) hs) hs (h.version (by rw [hp]; rfl)) rfl
  | eof hp _ =>
    have hload : inLoad s.ph = true := by rw [hp]; rfl
    exact inv_goto (inv_log h hs (by simp)) hs rfl (fun hx => by cases hx) (fun _ => h.imageHeld hload)
      (fun _ => h.version (by rw [hp]; rfl)) (fun _ => h.productId (.inl hload)) (fun hx => by cases hx)
  | line hp _ hlen =>
    exact inv_runVerdict (inv_latchLine h hs hlen) hp fun a d => decodeLine_record_length
  | @wrote r hr hp _ =>
    have hload : inLoad s.ph = true := by rw [hp]; rfl
    have hu := inv_after h hs hr.toOf
    have hw : Inv (latchEntry (memWrite (heldBytes s) (s.after r))) := inv_latchEntry_memWrite hu hload
    have hframe : ∀ v : State, (latchEntry v).ph = v.ph ∧ (latchEntry v).imgPresent = v.imgPresent ∧
        (latchEntry v).verValid = v.verValid ∧ (latchEntry v).pidValid = v.pidValid := by
      intro v
      unfold latchEntry
      split <;> simp
    obtain ⟨hph, himg, hver, hpid⟩ := hframe (memWrite (heldBytes s) (s.after r))
    exact inv_goto hw (by rw [hph]; exact hs) rfl (fun hx => by cases hx) (fun _ => himg.trans (h.imageHeld hload))
      (fun _ => hver.trans (h.version (by rw [hp]; rfl))) (fun _ => hpid.trans (h.productId (.inl hload)))
      (fun hx => by cases hx)
  | @jumped r hr hp =>
    exact inv_finished (inv_after h hs hr.toOf) hs (h.version (by rw [hp]; rfl)) (h.productId (.inl (by rw [hp]; rfl)))
  | @failed r c hr hc =>
    exact inv_aborted (inv_after h hs hr) hc hs

/-! ### Reset, start, and every step -/

/-- `Inv` at reset, whatever configuration and environment stand beside it (10_state.md R43). -/
theorem inv_resetRegs {s : State} (h : s.call = none) : Inv (resetRegs s) := by
  constructor <;> simp [resetRegs, State.reset, h, inSession, inRecord, inLoad, afterVersion, terminal]

theorem inv_started {s : State} (h : Inv s) (hp : s.ph = .idle) (cs : List Ctl) (ls : List Line) (img : Bool) :
    Inv { s with ctl := cs, img := ls, imgPresent := img, held := true, ln := 0, ph := .sync } :=
  { h with
    recordHeld := fun hx => by cases hx
    imageHeld := fun hx => by cases hx
    version := fun hx => by cases hx
    productId := fun hx => by rcases hx with hx | hx <;> cases hx
    held := rfl
    noFailure := fun _ => h.noFailure (by rw [hp]; simp)
    failure := fun hx => by cases hx
    exitDone := fun hx => by cases hx
    exitFail := fun hx => by cases hx
    nothingWritten := fun _ => h.nothingWritten (.inl (by rw [hp]; rfl))
    released := by
      have := h.released
      rw [hp] at this
      exact this
    releasedLast := fun hx => by cases hx }

/-- Settles O46, by what a step can do. -/
theorem stepKeepsTheInvariant : Obligations.StepKeepsTheInvariant := by
  intro s t h hstep
  cases step_effect h.noCall hstep with
  | reset _ _ => exact inv_resetRegs h.noCall
  | started _ hp => exact inv_started h hp _ _ _
  | rested _ _ => exact inv_ctl h _
  | ran _ he => exact effect_keeps_inv (inv_ctl h _) he

end Sys2Proof.Machine
end

section
/-! PROOFS. The wire and the counts: what an operation adds to `TX` and how many requests it makes, by the phase (30_encoding.md
R91; 43_orchestrator.md R179; 95_test_vectors.md sections 6 and 8). -/

namespace Sys2Proof.Machine

open Sys2Proof.Safety

/-! ### The wire -/

theorem writesOk_append {k l : List Event} : writesOk (k ++ l) ↔ writesOk k ∧ writesOk l := by
  simp only [writesOk, List.mem_append, not_or, forall_and]

section
variable {s : State} {r : Requests}

/-- A plain move: the wire grows by the bytes of the phase. -/
theorem wire_moved {q : Phase} (h : Inv s) (hr : r.Of s) (hq : moveOf s.ph = some q) :
    wire ((s.after r).goto q) = wire s ++ phaseBytes r.att s := by
  have hatt := hr.attKept
  have haddr : inRecord s.ph = true → heldAddr s = s.recAddr := fun hp => heldAddr_valid (h.recordHeld hp)
  cases hp : s.ph <;> rw [hp] at hq hatt haddr <;> cases hq <;>
    simp_all [wire, State.after, State.goto, phaseBytes, syncBytes, identBytes, loadBytes, inRecord]

/-- A fatal condition: the wire stands at the end of the failing frame. -/
theorem wire_failed {c : FailClass} (h : Inv s) (hr : r.Of s) (hc : fatalPair s.ph c = true) :
    wire (aborted s.ph c (kindOf c) (s.after r)) = wire s ++ phaseBytes r.att s := by
  have hatt := hr.attKept
  have haddr : inRecord s.ph = true → heldAddr s = s.recAddr := fun hp => heldAddr_valid (h.recordHeld hp)
  have hbytes : inRecord s.ph = true → heldBytes s = recordBytes s := fun hp => heldBytes_valid (h.recordHeld hp)
  cases hp : s.ph <;> rw [hp] at hc hatt haddr hbytes <;> cases c <;> cases hc <;>
    simp_all [wire, State.after, aborted, phaseBytes, syncBytes, identBytes, loadBytes, recordFrames, recordBytes,
      entryOperand, inRecord]

/-- A record written: its last frame closes the three frames of its entry in the write log. -/
theorem wire_wrote (h : Inv s) (hr : r.Of s) (hp : s.ph = .wrData) :
    wire ((latchEntry (memWrite (heldBytes s) (s.after r))).goto .fetch) = wire s ++ phaseBytes r.att s := by
  have hvalid : s.recValid = true := h.recordHeld (by rw [hp]; rfl)
  have hatt : r.att = s.att := hr.attKept (by rw [hp]; simp)
  have haddr : heldAddr (s.after r) = s.recAddr := heldAddr_valid hvalid
  rw [latch_write, haddr]
  simp [wire, hp, State.after, loadBytes, identBytes, syncBytes, hatt, phaseBytes, recordFrames]

theorem wire_jumped (h : Inv s) (hr : r.Of s) (hp : s.ph = .goAddr) :
    wire (finished (s.after r)) = wire s ++ phaseBytes r.att s := by
  have himg : s.imgPresent = true := h.imageHeld (by rw [hp]; rfl)
  have hatt : r.att = s.att := hr.attKept (by rw [hp]; simp)
  simp [wire, hp, finished, State.after, himg, loadBytes, identBytes, syncBytes, hatt, phaseBytes, entryOperand]

theorem wire_version (x : Vector Byte 4) (hr : r.Of s) (hp : s.ph = .getverResp) :
    wire ((latchVersion ((s.after r).setResp x)).goto .getidCmd) = wire s ++ phaseBytes r.att s := by
  have hatt : r.att = s.att := hr.attKept (by rw [hp]; simp)
  simp [wire, hp, latchVersion, State.after, syncBytes, hatt, phaseBytes]

theorem wire_product (x : Vector Byte 4) (h : Inv s) (hr : r.Of s) (hp : s.ph = .getidResp) :
    wire ((latchProductId ((s.after r).setResp x)).goto .fetch) = wire s ++ phaseBytes r.att s := by
  have hatt : r.att = s.att := hr.attKept (by rw [hp]; simp)
  have hwlog : s.wlog = [] := h.nothingWritten (.inl (by rw [hp]; rfl))
  simp [wire, hp, latchProductId, State.after, loadBytes, identBytes, syncBytes, hatt, hwlog, phaseBytes]

theorem wire_identified (x : Vector Byte 4) (hr : r.Of s) (hp : s.ph = .getidResp) (himg : s.imgPresent = false) :
    wire (finished (latchProductId ((s.after r).setResp x))) = wire s ++ phaseBytes r.att s := by
  have hatt : r.att = s.att := hr.attKept (by rw [hp]; simp)
  simp [wire, hp, latchProductId, finished, State.after, himg, identBytes, syncBytes, hatt, phaseBytes]

theorem wire_eof (hp : s.ph = .fetch) : wire ((s.log (.imgNext none)).goto .goCmd) = wire s := by
  simp [wire, hp, loadBytes, identBytes, syncBytes]

/-- No line sends anything, and what it leaves in the record registers is not on the wire yet. -/
theorem wire_line (v : Verdict) (cs : Line) (rest : List Line) (hp : s.ph = .fetch) :
    wire (runVerdict v (latchLine cs rest s)) = wire s := by
  cases v <;> simp [wire, runVerdict, afterDecode, recordRegs, discardRecord, writeRecord, latchLine, hp, loadBytes,
    identBytes, syncBytes]

end

/-- An operation adds to the wire what it sends. -/
theorem effect_wire {s t : State} (h : Inv s) (he : Effect s t) : ∃ l out,
    t.trace = s.trace ++ l ∧ t.tx = s.tx ++ out ∧ (writesOk l → wire t = wire s ++ out) := by
  cases he with
  | @moved r q hr hq =>
    exact ⟨r.events, r.sent, rfl, rfl, fun hw => by rw [wire_moved h hr.toOf hq, hr.bytes hw]⟩
  | @version r x hr hp =>
    exact ⟨r.events ++ [_], r.sent, List.append_assoc .., rfl,
      fun hw => by rw [wire_version x hr.toOf hp, hr.bytes (writesOk_append.1 hw).1]⟩
  | @product r x hr hp _ =>
    exact ⟨r.events ++ [_], r.sent, List.append_assoc .., rfl,
      fun hw => by rw [wire_product x h hr.toOf hp, hr.bytes (writesOk_append.1 hw).1]⟩
  | @identified r x hr hp himg =>
    exact ⟨r.events ++ [.report (.productId (productIdOf x)), .report .success, .release], r.sent,
      by simp [finished, latchProductId, State.after], rfl,
      fun hw => by rw [wire_identified x hr.toOf hp himg, hr.bytes (writesOk_append.1 hw).1]⟩
  | eof hp _ => exact ⟨[_], [], rfl, (List.append_nil _).symm, fun _ => (wire_eof hp).trans (List.append_nil _).symm⟩
  | @line cs rest hp _ _ =>
    have hwire := (wire_line (decodeLine s.cfg.hexLower cs) cs rest hp).trans (List.append_nil _).symm
    cases hv : decodeLine s.cfg.hexLower cs <;> rw [hv] at hwire
    case nothing => exact ⟨[_], [], rfl, (List.append_nil _).symm, fun _ => hwire⟩
    case skip => exact ⟨[_] ++ [_], [], List.append_assoc .., (List.append_nil _).symm, fun _ => hwire⟩
    case record => exact ⟨[_], [], rfl, (List.append_nil _).symm, fun _ => hwire⟩
  | @wrote r hr hp _ =>
    refine ⟨r.events, r.sent, ?_, ?_, fun hw => by rw [wire_wrote h hr.toOf hp, hr.bytes hw]⟩ <;> rw [latch_write] <;> rfl
  | @jumped r hr hp =>
    exact ⟨r.events ++ [_, _], r.sent, List.append_assoc .., rfl,
      fun hw => by rw [wire_jumped h hr.toOf hp, hr.bytes (writesOk_append.1 hw).1]⟩
  | @failed r c hr hc =>
    exact ⟨r.events ++ [_, _], r.sent, List.append_assoc .., rfl,
      fun hw => by rw [wire_failed h hr hc, hr.bytes (writesOk_append.1 hw).1]⟩

theorem wireInv_ctl {s : State} (h : WireInv s) (cs : List Ctl) : WireInv { s with ctl := cs } := h

theorem effect_keeps_wireInv {s t : State} (h : Inv s) (hwire : WireInv s) (he : Effect s t) : WireInv t := by
  obtain ⟨l, out, htrace, htx, hout⟩ := effect_wire h he
  intro hok
  rw [htrace, writesOk_append] at hok
  rw [htx, hwire hok.1, hout hok.2]

/-- Settles O48, by what a step can do. -/
theorem stepKeepsTheWireInvariant : Obligations.StepKeepsTheWireInvariant := by
  intro s t h hwire hstep
  cases step_effect h.noCall hstep with
  | reset _ _ => exact fun _ => rfl
  | started _ hp =>
    intro hok
    have htx := hwire hok
    rwa [wire, hp] at htx
  | rested _ _ => exact wireInv_ctl hwire _
  | ran _ he => exact effect_keeps_wireInv (inv_ctl h _) (wireInv_ctl hwire _) he

/-! ### The counts -/

/-- The counts that the law gives the state: `TxWrite` and `RxRead` requests (R179). -/
def writesDue (s : State) : Nat := attemptsMade s + 2 * exchangesMade s.imgPresent s.wlog.length s.ph
def readsDue (s : State) : Nat := attemptsMade s + exchangesMade s.imgPresent s.wlog.length s.ph + blocksRead s.ph

theorem countInv_iff {s : State} : CountInv s ↔
    (s.ph ≠ .fail → s.trace.countP isTxWrite = writesDue s ∧ s.trace.countP isRxRead = readsDue s) := Iff.rfl

/-- An operation adds to what is due the requests it makes. -/
theorem countInv_append {s t : State} {l : List Event} (hc : CountInv s) (hs : s.ph ≠ .fail)
    (htrace : t.trace = s.trace ++ l) (hw : writesDue t = writesDue s + l.countP isTxWrite)
    (hr : readsDue t = readsDue s + l.countP isRxRead) : CountInv t := by
  obtain ⟨hsw, hsr⟩ := countInv_iff.1 hc hs
  refine countInv_iff.2 fun _ => ?_
  rw [htrace, List.countP_append, List.countP_append, hsw, hsr, hw, hr]
  exact ⟨rfl, rfl⟩

section
variable {s : State} {r : Requests}

theorem due_moved {q : Phase} (hr : r.Of s) (hq : moveOf s.ph = some q) :
    writesDue ((s.after r).goto q) = writesDue s + phaseWrites r.att s.ph ∧
    readsDue ((s.after r).goto q) = readsDue s + phaseReads r.att s.ph := by
  have hatt := hr.attKept
  cases hp : s.ph <;> rw [hp] at hq hatt <;> cases hq <;>
    simp_all [writesDue, readsDue, State.after, attemptsMade, exchangesMade, blocksRead, phaseWrites, phaseReads] <;> omega

theorem due_version (x : Vector Byte 4) (hr : r.Of s) (hp : s.ph = .getverResp) :
    writesDue ((latchVersion ((s.after r).setResp x)).goto .getidCmd) = writesDue s + phaseWrites r.att s.ph ∧
    readsDue ((latchVersion ((s.after r).setResp x)).goto .getidCmd) = readsDue s + phaseReads r.att s.ph := by
  have hatt : r.att = s.att := hr.attKept (by rw [hp]; simp)
  simp [writesDue, readsDue, latchVersion, State.after, attemptsMade, exchangesMade, blocksRead,
    phaseWrites, phaseReads, hp, hatt]

theorem due_product (x : Vector Byte 4) (h : Inv s) (hr : r.Of s) (hp : s.ph = .getidResp) :
    writesDue ((latchProductId ((s.after r).setResp x)).goto .fetch) = writesDue s + phaseWrites r.att s.ph ∧
    readsDue ((latchProductId ((s.after r).setResp x)).goto .fetch) = readsDue s + phaseReads r.att s.ph := by
  have hatt : r.att = s.att := hr.attKept (by rw [hp]; simp)
  have hwlog : s.wlog = [] := h.nothingWritten (.inl (by rw [hp]; rfl))
  simp [writesDue, readsDue, latchProductId, State.after, attemptsMade, exchangesMade, blocksRead,
    phaseWrites, phaseReads, hp, hatt, hwlog]

theorem due_identified (x : Vector Byte 4) (hr : r.Of s) (hp : s.ph = .getidResp) (himg : s.imgPresent = false) :
    writesDue (finished (latchProductId ((s.after r).setResp x))) = writesDue s + phaseWrites r.att s.ph ∧
    readsDue (finished (latchProductId ((s.after r).setResp x))) = readsDue s + phaseReads r.att s.ph := by
  have hatt : r.att = s.att := hr.attKept (by rw [hp]; simp)
  simp [writesDue, readsDue, latchProductId, finished, State.after, attemptsMade, exchangesMade, blocksRead,
    phaseWrites, phaseReads, hp, hatt, himg]

theorem due_eof (hp : s.ph = .fetch) : writesDue ((s.log (.imgNext none)).goto .goCmd) = writesDue s ∧
    readsDue ((s.log (.imgNext none)).goto .goCmd) = readsDue s := by
  simp [writesDue, readsDue, attemptsMade, exchangesMade, blocksRead, hp]

theorem due_line (v : Verdict) (cs : Line) (rest : List Line) (hp : s.ph = .fetch) :
    writesDue (runVerdict v (latchLine cs rest s)) = writesDue s ∧
    readsDue (runVerdict v (latchLine cs rest s)) = readsDue s := by
  cases v <;> simp [writesDue, readsDue, attemptsMade, exchangesMade, blocksRead, runVerdict, afterDecode, recordRegs,
    discardRecord, writeRecord, latchLine, hp]

theorem due_wrote (d : List Byte) (hr : r.Of s) (hp : s.ph = .wrData) :
    writesDue ((latchEntry (memWrite d (s.after r))).goto .fetch) = writesDue s + phaseWrites r.att s.ph ∧
    readsDue ((latchEntry (memWrite d (s.after r))).goto .fetch) = readsDue s + phaseReads r.att s.ph := by
  have hatt : r.att = s.att := hr.attKept (by rw [hp]; simp)
  rw [latch_write]
  simp only [writesDue, readsDue, State.after, attemptsMade, exchangesMade, blocksRead,
    phaseWrites, phaseReads, hp, hatt, List.length_append, List.length_singleton]
  omega

theorem due_jumped (h : Inv s) (hr : r.Of s) (hp : s.ph = .goAddr) :
    writesDue (finished (s.after r)) = writesDue s + phaseWrites r.att s.ph ∧
    readsDue (finished (s.after r)) = readsDue s + phaseReads r.att s.ph := by
  have hatt : r.att = s.att := hr.attKept (by rw [hp]; simp)
  have himg : s.imgPresent = true := h.imageHeld (by rw [hp]; rfl)
  simp only [writesDue, readsDue, finished, State.after, attemptsMade, exchangesMade, blocksRead,
    phaseWrites, phaseReads, hp, hatt, himg, if_true]
  omega

end

theorem countP_runVerdict (v : Verdict) (cs : Line) (rest : List Line) (s : State) : ∃ l,
    (runVerdict v (latchLine cs rest s)).trace = s.trace ++ l ∧ l.countP isTxWrite = 0 ∧ l.countP isRxRead = 0 := by
  cases v with
  | nothing => exact ⟨[_], rfl, rfl, rfl⟩
  | skip r => exact ⟨[_] ++ [_], List.append_assoc .., rfl, rfl⟩
  | record a d => exact ⟨[_], rfl, rfl, rfl⟩

/-- The same for an operation whose requests are followed by events that are none. -/
theorem countInv_requests {s t : State} {r : Requests} {l : List Event} (hc : CountInv s) (hr : r.Complete s)
    (hs : s.ph ≠ .fail) (htrace : t.trace = s.trace ++ (r.events ++ l))
    (hl : l.countP isTxWrite = 0 ∧ l.countP isRxRead = 0)
    (hdue : writesDue t = writesDue s + phaseWrites r.att s.ph ∧ readsDue t = readsDue s + phaseReads r.att s.ph) :
    CountInv t :=
  countInv_append hc hs htrace (by rw [hdue.1, List.countP_append, hr.writes, hl.1, Nat.add_zero])
    (by rw [hdue.2, List.countP_append, hr.reads, hl.2, Nat.add_zero])

theorem effect_keeps_countInv {s t : State} (h : Inv s) (hc : CountInv s) (he : Effect s t) : CountInv t := by
  cases he with
  | @moved r q hr hq =>
    have hp := (terminal_of_inSession (moveOf_keeps hq).1).2.2
    have hnil : r.events = r.events ++ [] := (List.append_nil _).symm
    exact countInv_requests hc hr hp (congrArg _ hnil) ⟨rfl, rfl⟩ (due_moved hr.toOf hq)
  | @version r x hr hp =>
    exact countInv_requests hc hr (by rw [hp]; simp) (List.append_assoc ..) ⟨rfl, rfl⟩ (due_version x hr.toOf hp)
  | @product r x hr hp _ =>
    exact countInv_requests hc hr (by rw [hp]; simp) (List.append_assoc ..) ⟨rfl, rfl⟩ (due_product x h hr.toOf hp)
  | @identified r x hr hp himg =>
    have htrace : (finished (latchProductId ((s.after r).setResp x))).trace =
        s.trace ++ (r.events ++ [.report (.productId (productIdOf x)), .report .success, .release]) := by
      simp [finished, latchProductId, State.after]
    exact countInv_requests hc hr (by rw [hp]; simp) htrace ⟨rfl, rfl⟩ (due_identified x hr.toOf hp himg)
  | eof hp _ =>
    obtain ⟨hw, hd⟩ := due_eof hp
    exact countInv_append hc (by rw [hp]; simp) rfl hw hd
  | @line cs rest hp _ _ =>
    obtain ⟨l, htrace, hlw, hlr⟩ := countP_runVerdict (decodeLine s.cfg.hexLower cs) cs rest s
    obtain ⟨hw, hd⟩ := due_line (decodeLine s.cfg.hexLower cs) cs rest hp
    exact countInv_append hc (by rw [hp]; simp) htrace (by rw [hw, hlw]; rfl) (by rw [hd, hlr]; rfl)
  | @wrote r hr hp _ =>
    have htrace : ((latchEntry (memWrite (heldBytes s) (s.after r))).goto .fetch).trace = s.trace ++ (r.events ++ []) := by
      rw [latch_write, List.append_nil]
      rfl
    exact countInv_requests hc hr (by rw [hp]; simp) htrace ⟨rfl, rfl⟩ (due_wrote (heldBytes s) hr.toOf hp)
  | @jumped r hr hp =>
    exact countInv_requests hc hr (by rw [hp]; simp) (List.append_assoc ..) ⟨rfl, rfl⟩ (due_jumped h hr.toOf hp)
  | failed _ _ => exact fun hne => absurd rfl hne

theorem countInv_ctl {s : State} (h : CountInv s) (cs : List Ctl) : CountInv { s with ctl := cs } := h

theorem step_keeps_countInv {s t : State} (h : Inv s) (hc : CountInv s) (hstep : step s = .next t) : CountInv t := by
  cases step_effect h.noCall hstep with
  | reset _ _ => exact fun _ => ⟨rfl, rfl⟩
  | started _ hp =>
    have hs := hc (by rw [hp]; simp)
    simp only [attemptsMade, hp] at hs
    exact fun _ => hs
  | rested _ _ => exact countInv_ctl hc _
  | ran _ he => exact effect_keeps_countInv (inv_ctl h _) (countInv_ctl hc _) he

/-- Settles O49: every step keeps the counts at what is due, and `DONE` has the sums of the law. -/
theorem requestsAreCounted : Obligations.RequestsAreCounted := by
  refine ⟨fun s t => step_keeps_countInv, fun s hc hp => ?_⟩
  obtain ⟨hw, hr⟩ := hc (by rw [hp]; simp)
  rw [hw, hr]
  simp only [attemptsMade, exchangesMade, blocksRead, hp, and_true]
  split <;> omega

end Sys2Proof.Machine
end

section
/-! PROOFS. The operations by themselves: what each gives and what it leaves alone (40_synchronizer.md sections 1 to 3;
43_orchestrator.md sections 1 to 4; 41_exchange.md section 3; 42_record_decoder.md sections 1 and 2; 60_exceptions.md R200). -/

namespace Sys2Proof.Machine

open Sys2Proof.Safety

/-! ### The synchronizer -/

/-- An attempt that reads an error ends the loop under `SYNC_RX_ERROR_FATAL`, with its number in `ATT` (log 29). -/
theorem syncLoop_readError {s : State} {txs : List TxAnswer} {rxs : List RxEvent} (n : Nat) (hms : s.cfg.tSync ≠ 0)
    (hfatal : s.cfg.syncRxErrorFatal = true) (ht : s.txIn = .ok :: txs) (hr : s.rxIn = .error :: rxs) :
    syncLoop (n + 1) s = aborted .sync .io .link { s with
      att := s.att + 1, tx := s.tx ++ [0x7F], txIn := txs, rxIn := rxs,
      trace := s.trace ++ attempt s.cfg.tSync .error } := by
  have hw := txWrite_ok (s := { s with att := s.att + 1 }) [Config.syncByte] ht
  have hread := rxRead_one (e := .error) (es := rxs) hms (s := { s with
    att := s.att + 1
    txIn := txs
    tx := s.tx ++ [Config.syncByte]
    trace := s.trace ++ [.txWrite [Config.syncByte] true] }) hr
  simp only [syncLoop, hw, if_true, hread, answerOf, hfatal, fatal_eq]
  simp [attempt, answerOf, Config.syncByte, kindOf]

/-- Settles O14: the spent attempts leave at least one, and it reads the error. -/
theorem syncReadErrorFatalWhenConfigured : Obligations.SyncReadErrorFatalWhenConfigured := by
  intro s es txs rxs hms hfatal hlen hsp ht hr
  obtain ⟨k, hk⟩ := Nat.exists_eq_add_of_lt hlen
  have ht' : s.txIn = List.replicate es.length .ok ++ .ok :: txs := by
    rw [ht, List.replicate_succ', List.append_assoc, List.singleton_append]
  rw [exec_sync_attempted (k + 1) hms hk.symm (by rw [hfatal]; exact hsp) ht' hr,
    syncLoop_readError (s := attempted es (.ok :: txs) (.error :: rxs) s) k hms hfatal rfl rfl]
  simp [attempted, List.replicate_succ']

/-- Settles O15, by what `SYNC` can do. -/
theorem syncFrame : Obligations.SyncFrame := by
  intro s
  obtain ⟨j, out, txs, rxs, n, l, hj, -, -, ⟨he, -, -⟩ | ⟨c, hc, he⟩⟩ := exec_sync_cases s
  · exact ⟨_, he, hj, .inl ⟨rfl, rfl, rfl, rfl, rfl, rfl⟩, rfl⟩
  · exact ⟨_, he, hj, .inr ⟨rfl, rfl, rfl, rfl, rfl, hc⟩, rfl⟩

/-! ### The reply byte by itself -/

/-- Settles O18: the two rows act by the phase. -/
theorem replyByteMeanings : Obligations.ReplyByteMeanings := by
  refine fun s b => ⟨fun hp => ?_, fun hp => ?_⟩
  · exact ⟨by simp only [exec, execAck, hp]; rfl, by simp only [exec, execNack, hp]⟩
  · simp only [exec, execAck, execNack]
    exact ⟨rfl, rfl⟩

/-! ### The exchanges -/

theorem lengthByte_eq_ofInt (n : Nat) : lengthByte n = BitVec.ofInt 8 ((n : Int) - 1) := by
  apply BitVec.eq_of_toInt_eq
  rw [lengthByte, BitVec.toInt_sub, BitVec.toInt_ofInt, BitVec.toInt_ofNat', Int.bmod_sub_bmod]
  rfl

/-- Settles O20: the data exchange is followed by the write log, the latch and the move. -/
theorem dataExchange : Obligations.DataExchange := by
  refine ⟨fun _ => heldAddr_valid, fun d => ⟨?_, failsByReply_of_exchangePayload rfl⟩⟩
  rw [← lengthByte_eq_ofInt]
  have hnext : (fun u => (latchEntry (memWrite d u)).goto .fetch) = _ := funext (latch_write d)
  rw [← hnext]
  exact acknowledged_of_exec (t := .data) fun _ => rfl

section
variable {s : State} {i : Instr} {p : List Byte} {a : TxAnswer} {txs : List TxAnswer} {rxs : List RxEvent}

/-- `exchange_failed` at the seven call sites. -/
theorem exec_exchange_aborted {e : RxEvent} {c : FailClass} (hp : exchangePayload i = some p) (ht : s.txIn = .ok :: a :: txs)
    (hr : s.rxIn = e :: rxs) (hc : classOf (classify (answerOf e)) = some c) : exec i s = .next (aborted s.ph c (kindOf c)
      (exchanged p (exchangeMs i) a txs (answerOf e) rxs (classify (answerOf e)) s)) := by
  obtain ⟨t, next, hms, he⟩ := exec_eq_exchange hp s
  rw [he, exchange_failed next ht hr hc, hms]

/-- A payload that is not taken: `XCHG` ends with `IoFailure`, and `CHECK` takes the abort path. -/
theorem exec_exchange_unsent {k : Nat} (hp : exchangePayload i = some p) (ht : s.txIn = .error k :: txs) :
    exec i s = .next (aborted s.ph .io .link (payloadFailed p k txs s)) := by
  obtain ⟨t, next, -, he⟩ := exec_eq_exchange hp s
  rw [he, exchange, xchg_unsent ht, check_failed next (c := .io) rfl, fatal_eq]
  rfl

end

/-- Settles O22, cause by cause. -/
theorem exchangeFailures : Obligations.ExchangeFailures := by
  intro i p s txs rxs a k
  refine ⟨fun t ht => by rw [exec, execXchg, xchg_unsent ht], fun hp => ⟨exec_exchange_unsent hp, fun ht hr => ?_,
    fun ht hr => ?_, fun b hb => exec_exchange_refused hp hb⟩⟩
  · exact exec_exchange_aborted hp ht hr rfl
  · exact exec_exchange_aborted hp ht hr rfl

/-- Settles O24, by what the exchanges and `XCHG` can do. -/
theorem exchangeFrame : Obligations.ExchangeFrame := by
  refine ⟨fun i p s hp => ?_, fun p r s => ?_⟩
  · obtain ⟨k, o, out, txs, rxs, n, l, -, -, -, h⟩ := exec_exchange_cases hp s
    rcases h with ⟨-, -, -, ⟨q, -, he⟩ | ⟨d, hi, -, he⟩ | ⟨e, -, -, he⟩⟩ | ⟨c, -, he⟩
    · exact ⟨_, he, rfl, .inr ⟨rfl, rfl, rfl⟩⟩
    · rw [latch_write] at he
      exact ⟨_, he, rfl, .inl ⟨d, hi⟩⟩
    · exact ⟨_, he, rfl, .inr ⟨rfl, rfl, rfl⟩⟩
    · exact ⟨_, he, rfl, .inr ⟨rfl, rfl, rfl⟩⟩
  · obtain ⟨k, o, out, txs, rxs, n, l, he, -⟩ := xchg_spec p r s
    exact ⟨_, congrArg Host.Outcome.next he, rfl⟩

/-! ### The response reads -/

/-- A response read that a wait running out or an error ends is fatal at the current phase, whatever would have followed. -/
theorem readResponse_short {s : State} {few : List Byte} {e : RxEvent} {rxs : List RxEvent} {c : FailClass}
    (next : State → State) (hms : s.cfg.tResp ≠ 0) (hc : e = .timedOut ∧ c = .timeout ∨ e = .error ∧ c = .io)
    (hfew : few.length < 4) (hr : s.rxIn = few.map .byte ++ e :: rxs) : readResponse next s =
      aborted s.ph c (kindOf c) { s with rxIn := rxs, trace := s.trace ++ [.rxRead 4 s.cfg.tResp (answerOf e)] } := by
  have hread := rxRead_short hms (hc.imp And.left And.left) hfew hr
  rw [readResponse, Config.respLen, hread]
  rcases hc with ⟨rfl, rfl⟩ | ⟨rfl, rfl⟩ <;> exact fatal_eq _ _ _

/-- Settles O25: four bytes are there, or one of the two ends of the read comes before. -/
theorem responseRead : Obligations.ResponseRead := by
  intro s b0 b1 b2 b3 few rxs
  refine ⟨fun hr => ?_, fun hms hfew hr => ?_, fun hms hfew hr => ?_⟩
  · rw [exec, execRdresp, readResponse_four _ hr]
  · rw [exec, execRdresp, readResponse_short _ hms (.inl ⟨rfl, rfl⟩) hfew hr]
    rfl
  · rw [exec, execRdresp, readResponse_short _ hms (.inr ⟨rfl, rfl⟩) hfew hr]
    rfl

/-- Settles O26. -/
theorem versionIsTheFirstByte : Obligations.VersionIsTheFirstByte := by
  intro s b0 b1 b2 b3 rxs hr
  rw [exec, execGetverResp, readResponse_four _ hr]
  simp [latchVersion, State.log, State.goto, versionOf]

theorem productIdOf_toNat (b0 b1 b2 b3 : Byte) : (productIdOf #v[b0, b1, b2, b3]).toNat = b1.toNat * 256 + b2.toNat := by
  have h1 := b1.isLt
  have h2 := b2.isLt
  simp only [productIdOf, BitVec.toNat_add, BitVec.toNat_mul, BitVec.toNat_setWidth]
  simp
  omega

/-- Settles O27: the four bytes are read and the product ID latched, and the image decides what follows. -/
theorem productIdIsBytesOneAndTwo : Obligations.ProductIdIsBytesOneAndTwo := by
  intro s b0 b1 b2 b3 rxs hr
  refine ⟨productIdOf #v[b0, b1, b2, b3], productIdOf_toNat b0 b1 b2 b3, fun himg => ?_, fun himg => ?_⟩
  · rw [exec, execGetidResp, readResponse_four _ hr, afterIdentify_image (by exact himg)]
    simp [latchProductId, State.log, State.goto]
  · rw [exec, execGetidResp, readResponse_four _ hr, afterIdentify_noImage (by exact himg)]
    simp [latchProductId, State.log]

theorem afterIdentify_cases (u : State) :
    u.imgPresent = true ∧ afterIdentify u = u.goto .fetch ∨ u.imgPresent = false ∧ afterIdentify u = finished u := by
  rcases Bool.eq_false_or_eq_true u.imgPresent with h | h
  · exact .inl ⟨h, afterIdentify_image h⟩
  · exact .inr ⟨h, afterIdentify_noImage h⟩

/-- The abort path after a response read, with either class. -/
theorem readFailed_aborted (s : State) (rxs : List RxEvent) (m : Nat) (l : List Event) :
    ReadFailed s (aborted s.ph .timeout .protocol { s with rxIn := rxs, draws := m, trace := s.trace ++ l }) ∧
    ReadFailed s (aborted s.ph .io .link { s with rxIn := rxs, draws := m, trace := s.trace ++ l }) :=
  ⟨⟨rfl, rfl, rfl, rfl, .inl ⟨rfl, rfl⟩, rfl, rfl, rfl, rfl, rfl⟩,
    ⟨rfl, rfl, rfl, rfl, .inr ⟨rfl, rfl⟩, rfl, rfl, rfl, rfl, rfl⟩⟩

/-- Settles O28, by what a response read can do. -/
theorem responseFrame : Obligations.ResponseFrame := by
  refine fun s => ⟨?_, ?_, ?_⟩
  · obtain ⟨rxs, m, a, ⟨bs, -, -, ⟨-, he⟩ | ⟨hi, -⟩ | ⟨hi, -⟩⟩ | he | he⟩ := exec_response_cases (.inl rfl) s
    · exact ⟨_, he, .inr ⟨rfl, rfl, rfl, rfl, rfl, rfl, rfl⟩, rfl⟩
    · cases hi
    · cases hi
    · exact ⟨_, he, .inl (readFailed_aborted s rxs m _).1, rfl⟩
    · exact ⟨_, he, .inl (readFailed_aborted s rxs m _).2, rfl⟩
  · obtain ⟨rxs, m, a, ⟨bs, -, -, ⟨hi, -⟩ | ⟨-, he⟩ | ⟨hi, -⟩⟩ | he | he⟩ := exec_response_cases (.inr (.inl rfl)) s
    · cases hi
    · rcases afterIdentify_cases (latchProductId { s with
        rxIn := rxs, draws := m, trace := s.trace ++ [.rxRead 4 s.cfg.tResp a], resp := respOf bs }) with ⟨-, hid⟩ | ⟨-, hid⟩
      · exact ⟨_, he.trans (congrArg _ hid), .inr (.inl ⟨rfl, rfl, rfl, rfl, rfl, rfl, rfl⟩), rfl⟩
      · exact ⟨_, he.trans (congrArg _ hid), .inr (.inr ⟨rfl, rfl, rfl, rfl, rfl, rfl, rfl⟩), rfl⟩
    · cases hi
    · exact ⟨_, he, .inl (readFailed_aborted s rxs m _).1, rfl⟩
    · exact ⟨_, he, .inl (readFailed_aborted s rxs m _).2, rfl⟩
  · obtain ⟨rxs, m, a, ⟨bs, -, -, ⟨hi, -⟩ | ⟨hi, -⟩ | ⟨-, he⟩⟩ | he | he⟩ := exec_response_cases (.inr (.inr rfl)) s
    · cases hi
    · cases hi
    · exact ⟨_, he, .inr rfl⟩
    · exact ⟨_, he, .inl ⟨(readFailed_aborted s rxs m _).1, rfl⟩⟩
    · exact ⟨_, he, .inl ⟨(readFailed_aborted s rxs m _).2, rfl⟩⟩

/-! ### Image lines -/

/-- The record registers after a record, behind its length (R150). -/
theorem writeRecord_registers (a : Word) {d : List Byte} (hd : d.length ≤ 64) (s : State) :
    (writeRecord a d s).lenField.toNat = d.length + 5 ∧ recordBytes (writeRecord a d s) = d := by
  refine ⟨?_, overlay_take _ hd⟩
  show (BitVec.ofNat 8 (d.length + 5)).toNat = d.length + 5
  rw [BitVec.toNat_ofNat]
  omega

/-- Settles O35. -/
theorem recordLineIsLatched : Obligations.RecordLineIsLatched := by
  intro s a d hd
  obtain ⟨hlen, hbytes⟩ := writeRecord_registers a hd s
  exact ⟨_, rfl, rfl, rfl, rfl, rfl, hlen, hbytes, rfl⟩

/-- Settles O36, by the verdict on the line held. -/
theorem decodeWritesOnlyTheRecord : Obligations.DecodeWritesOnlyTheRecord := by
  intro s
  refine ⟨_, rfl, fun a d hv => ?_, fun hno => ?_, ?_⟩
  · have hverdict : lineVerdict s = .record a d := hv
    obtain ⟨hlen, hbytes⟩ := writeRecord_registers a (decodeLine_record_length hv) s
    rw [hverdict]
    exact ⟨rfl, rfl, rfl, hlen, hbytes⟩
  · have hno' : ∀ a d, lineVerdict s ≠ .record a d := hno
    cases hv : lineVerdict s with
    | nothing => rfl
    | skip r => rfl
    | record a d => exact absurd hv (hno' a d)
  · cases lineVerdict s <;> rfl

/-- Settles O33. -/
theorem blankLineDoesNothingElse : Obligations.BlankLineDoesNothingElse := fun _ => rfl

/-- Settles O34: the four forms differ in their reason alone. -/
theorem skippedLineIsOnlyReported : Obligations.SkippedLineIsOnlyReported := by
  intro s i r hi
  simp only [List.mem_cons, Prod.mk.injEq, List.not_mem_nil, or_false] at hi
  rcases hi with ⟨rfl, rfl⟩ | ⟨rfl, rfl⟩ | ⟨rfl, rfl⟩ | ⟨rfl, rfl⟩ <;> exact ⟨_, rfl, rfl, rfl, rfl⟩

/-- Settles O30. -/
theorem endOfImageGoesToGo : Obligations.EndOfImageGoesToGo := by
  intro s himg
  rcases exec_fetch_cases s with ⟨-, he⟩ | ⟨cs, rest, himg', -⟩
  · exact he
  · cases himg.symm.trans himg'

/-- A line form by itself does what its verdict does in the record loop. -/
theorem exec_form (v : Verdict) (s : State) : exec v.form s = .next (runVerdict v s) := by
  cases v with
  | nothing => rfl
  | skip r => cases r <;> rfl
  | record a d => rfl

section
variable {s : State} {cs : Line} {rest : List Line}

theorem exec_fetch_line (himg : s.img = cs :: rest) (hlen : cs.length ≤ s.cfg.lineMax) :
    exec .fetch s = .next (runVerdict (decodeLine s.cfg.hexLower cs) (latchLine cs rest s)) := by
  rcases exec_fetch_cases s with ⟨hnil, -⟩ | ⟨cs', rest', himg', ⟨hover, -⟩ | ⟨-, he⟩⟩
  · cases himg.symm.trans hnil
  · cases himg.symm.trans himg'
    omega
  · cases himg.symm.trans himg'
    exact he

theorem exec_fetch_overlong (himg : s.img = cs :: rest) (hover : s.cfg.lineMax < cs.length) :
    exec .fetch s = .refused .lineTooLong := by
  rcases exec_fetch_cases s with ⟨hnil, -⟩ | ⟨cs', rest', himg', ⟨-, he⟩ | ⟨hlen, -⟩⟩
  · cases himg.symm.trans hnil
  · exact he
  · cases himg.symm.trans himg'
    omega

end

/-- Settles O31: the fetch and the form both run the line's verdict on the state that holds the line. -/
theorem fetchRunsTheLinesForm : Obligations.FetchRunsTheLinesForm :=
  fun s cs rest himg hlen => ⟨_, exec_fetch_line himg hlen, exec_form (decodeLine s.cfg.hexLower cs) (latchLine cs rest s)⟩

/-- Settles O32. -/
theorem overlongLineIsRefused : Obligations.OverlongLineIsRefused := fun _ _ _ => exec_fetch_overlong

/-! ### The session's ends -/

/-- Settles O37. -/
theorem startOnlyInIdle : Obligations.StartOnlyInIdle := by
  refine fun s img => ⟨fun hp => ?_, fun hp => ?_⟩
  · simp only [exec, execStart, hp]
  · simp only [exec, execStart]

/-- Settles O38. -/
theorem finishReportsAndReleases : Obligations.FinishReportsAndReleases := fun s => congrArg _ (finish_eq s)

/-- Settles O39. -/
theorem abortPathRecordsAndReleases : Obligations.AbortPathRecordsAndReleases :=
  fun s p => ⟨congrArg _ (fatal_eq p .nack s), congrArg _ (fatal_eq p .timeout s), congrArg _ (fatal_eq p .io s),
    congrArg _ (fatal_eq p .syncExhausted s)⟩

end Sys2Proof.Machine
end

section
/-! PROOFS. The step and the whole machine: what a step runs, what only grows, what never changes, and that a session ends
(10_state.md sections 3, 6 and 7; 43_orchestrator.md sections 1 and 5; 60_exceptions.md; 70_reset_and_hazards.md section 1). -/

namespace Sys2Proof.Machine

open Sys2Proof.Safety

/-! ### What the boundary runs -/

theorem runSelected_call {u : State} {i : Instr} (hcall : u.call = some i) : runSelected u = exec i { u with call := none } := by
  simp only [runSelected, hcall]

theorem runSelected_op {u : State} {i : Instr} (hcall : u.call = none) (hsel : select u = .op i) : runSelected u = exec i u := by
  simp only [runSelected, hcall, hsel]

theorem step_quiet {s : State} {cs : List Ctl} (hctl : s.ctl = .quiet :: cs) : step s = runSelected { s with ctl := cs } := by
  rw [step, hctl]

theorem step_noInput {s : State} (hctl : s.ctl = []) : step s = runSelected s := by
  rw [step, hctl]

/-- Settles O40: without a control input, the call or the sequencer's selection is run. -/
theorem stepRunsTheSelectedOperation : Obligations.StepRunsTheSelectedOperation := by
  refine fun s i cs => ⟨step_selected, step_rest, fun hctl hcall => ?_, fun hctl hcall hsel => ?_⟩
  · rw [step_noInput hctl, runSelected_call hcall]
  · rw [step_quiet hctl]
    exact runSelected_op hcall hsel

/-- A called operation placed is run by itself. -/
theorem step_calling (i : Instr) (s : State) : step (calling i s) = exec i { calling i s with call := none } := rfl

/-- A well-formed operation placed is what the next step runs. -/
theorem step_placeInstr {i : Instr} (hw : i.wf = true) (s : State) :
    step (placeInstr i s) = exec i { placeInstr i s with call := none } := by
  cases i
  case wrmemData d =>
    have hd := wf_wrmemData.1 hw
    have hbytes : heldBytes (placeInstr (.wrmemData d) s) = d := overlay_take s.recData hd
    refine step_selected (i := .wrmemData d) rfl rfl ?_
    exact congrArg (fun d => Selection.op (.wrmemData d)) hbytes
  all_goals rfl

theorem firstOk_eq_some {x y : Decoded} {i : Instr} (h : firstOk x y = some i) : x = .ok i ∨ y = .ok i := by
  cases x <;> cases y <;> cases h <;> simp

theorem decodeBlock_eq_ok {bs : List Byte} {i j : Instr} (h : decodeBlock j bs = .ok i) : i = j := by
  unfold decodeBlock at h
  split at h <;> cases h
  rfl

/-- The decoder reads well-formed operations from the table's words. -/
theorem decodeTableWord_wf {nbits w : Nat} {i : Instr} (h : decodeTableWord nbits w = some i) : i.wf = true := by
  have hwf : ∀ p bs, (p = .unit ∨ p = .wrAddr ∨ p = .wrData ∨ p = .goAddr ∨ p = .reply ∨ ∃ t, p = .exchange t) →
      decode true p bs = .ok i → i.wf = true := fun p bs hp hd => (decodedFramesAreEncodings true p bs i hp hd).1
  unfold decodeTableWord at h
  split_ifs at h <;> rcases firstOk_eq_some h with h | h
  · exact hwf .unit _ (by simp) h
  · exact hwf .reply _ (by simp) h
  · exact hwf .unit _ (by simp) h
  · exact hwf .wrData _ (by simp) h
  · rw [decodeBlock_eq_ok h]
    rfl
  · cases h
  · exact hwf .wrAddr _ (by simp) h
  · exact hwf .wrData _ (by simp) h
  · exact hwf .wrData _ (by simp) h
  · cases h

/-- Settles O41: the word's operation is well-formed, so what is placed is what runs. -/
theorem placedWordRuns : Obligations.PlacedWordRuns := by
  intro s nbits w i h
  rw [State.withFetchWord, placeWord, h]
  exact step_placeInstr (decodeTableWord_wf h) s

theorem inSession_eq_false {p : Phase} : inSession p = false ↔ p ∈ [Phase.idle, .done, .fail] := by
  cases p <;> simp [inSession]

theorem step_reset {s : State} {cs : List Ctl} (hctl : s.ctl = .reset :: cs) :
    step s = if inSession s.ph then .refused .resetInSession else .next (resetRegs { s with ctl := cs }) := by
  rw [step, hctl]
  rfl

/-- Settles O42, input by input. -/
theorem controlInputsAtTheBoundary : Obligations.ControlInputsAtTheBoundary := by
  refine fun s image cs => ⟨fun hctl => ?_, fun ls hctl hp => ?_, fun hctl hp => ?_, fun hctl hp => ?_⟩
  · rw [step, hctl]
    rfl
  · exact ⟨_, (step_start hctl).1 hp, rfl, rfl, rfl, rfl⟩
  · rw [step_reset hctl, inSession_eq_false.2 hp]
    rfl
  · rw [step_reset hctl, if_pos (by simpa using mt inSession_eq_false.1 hp)]

/-- Settles O43: the sequencer's table, its operands behind their guards. -/
theorem phaseSelectsItsOperation : Obligations.PhaseSelectsItsOperation := by
  intro s
  refine ⟨fun hp => select_rest_iff.2 (inSession_eq_false.2 hp), select_eq_sync.2, fun hp => ?_, select_eq_getverResp.2,
    fun hp => ?_, select_eq_getidResp.2, select_eq_fetch.2, fun hp => ?_, fun hp hv => ?_, fun hp hv => ?_,
    fun hp _ => ?_, fun hp _ => ?_, fun hp => ?_, fun hp hv => ?_, fun hp hv => ?_⟩ <;> simp only [select, hp]
  · rw [heldAddr_valid hv]
  · rw [heldBytes_valid hv, recordBytes]
  · exact ⟨_, rfl⟩
  · exact ⟨_, heldBytes_length s, rfl⟩
  · rw [entryOperand, hv]
    rfl
  · rw [entryOperand, hv]
    rfl

/-! ### The table of transitions -/

theorem effect_transition {s t : State} (he : Effect s t) : transition s.ph t.ph = true := by
  cases he with
  | moved hr hq =>
    revert hq
    cases s.ph <;> intro hq <;> cases hq <;> rfl
  | version _ _ hp => rw [hp]; rfl
  | product _ _ hp _ => rw [hp]; rfl
  | identified _ _ hp _ => rw [hp]; rfl
  | eof hp _ => rw [hp]; rfl
  | @line cs rest hp _ _ =>
    have hph := runVerdict_ph (decodeLine s.cfg.hexLower cs) (latchLine cs rest s)
    rw [show (latchLine cs rest s).ph = .fetch from hp] at hph
    rcases hph with hph | hph <;> rw [hp, hph] <;> rfl
  | wrote _ hp _ => rw [hp]; rfl
  | jumped _ hp => rw [hp]; rfl
  | @failed r c _ hc =>
    revert hc
    show _ → transition s.ph .fail = true
    cases s.ph <;> simp [fatalPair, transition]

/-- Settles O47, by what a step can do. -/
theorem phaseTransitions : Obligations.PhaseTransitions := by
  intro s t hctl hcall hstep
  cases step_effect hcall hstep with
  | reset h _ => cases hctl.symm.trans h
  | started h _ => cases hctl.symm.trans h
  | rested _ hp =>
    have hrest := inSession_eq_false.1 (hp.resolve_right (not_not.2 hctl))
    simp only [List.mem_cons, List.not_mem_nil, or_false] at hrest
    rcases hrest with hp | hp | hp <;> rw [hp] <;> rfl
  | ran _ he =>
    have hph := effect_transition he
    exact hph

end Sys2Proof.Machine
end

section
/-! PROOFS. What every step keeps, whatever operation runs: `TRACE` and `TX` only grow, the configuration and a valid entry
address never change (10_state.md sections 3, 6 and 7; 20_memory.md section 6). -/

namespace Sys2Proof.Machine

open Sys2Proof.Safety

/-! ### What only grows -/

/-- What no operation takes back: the ghost records grow, the configuration stays, and so does an entry address once valid. -/
structure Grows (s t : State) : Prop where
  trace : s.trace <+: t.trace
  tx : s.tx <+: t.tx
  cfg : t.cfg = s.cfg
  entry : s.entryValid = true → t.entryValid = true ∧ t.entryAddr = s.entryAddr

section
variable {s t u : State} {i : Instr}

theorem Grows.refl (s : State) : Grows s s := ⟨List.prefix_rfl, List.prefix_rfl, rfl, fun h => ⟨h, rfl⟩⟩

theorem Grows.trans (h : Grows s t) (h' : Grows t u) : Grows s u where
  trace := h.trace.trans h'.trace
  tx := h.tx.trans h'.tx
  cfg := h'.cfg.trans h.cfg
  entry := fun hv => by
    obtain ⟨hvt, hat⟩ := h.entry hv
    obtain ⟨hvu, hau⟩ := h'.entry hvt
    exact ⟨hvu, hau.trans hat⟩

/-- A state with the same configuration and entry address, and its ghost records appended to. -/
theorem grows_append {l : List Event} {out : List Byte} (htrace : t.trace = s.trace ++ l) (htx : t.tx = s.tx ++ out)
    (hcfg : t.cfg = s.cfg) (hvalid : t.entryValid = s.entryValid) (haddr : t.entryAddr = s.entryAddr) : Grows s t :=
  ⟨⟨l, htrace.symm⟩, ⟨out, htx.symm⟩, hcfg, fun h => ⟨hvalid.trans h, haddr⟩⟩

theorem grows_of_events {l : List Event} (htrace : t.trace = s.trace ++ l) (htx : t.tx = s.tx) (hcfg : t.cfg = s.cfg)
    (hvalid : t.entryValid = s.entryValid) (haddr : t.entryAddr = s.entryAddr) : Grows s t :=
  grows_append htrace (htx.trans (List.append_nil _).symm) hcfg hvalid haddr

theorem grows_of_eq (htrace : t.trace = s.trace) (htx : t.tx = s.tx) (hcfg : t.cfg = s.cfg)
    (hvalid : t.entryValid = s.entryValid) (haddr : t.entryAddr = s.entryAddr) : Grows s t :=
  grows_of_events (htrace.trans (List.append_nil _).symm) htx hcfg hvalid haddr

theorem grows_aborted (p : Phase) (c : FailClass) (k : ErrKind) (s : State) : Grows s (aborted p c k s) :=
  grows_of_events (l := [_, _]) rfl rfl rfl rfl rfl

theorem grows_finished (s : State) : Grows s (finished s) :=
  grows_of_events (l := [_, _]) rfl rfl rfl rfl rfl

theorem grows_write (d : List Byte) (s : State) : Grows s ((latchEntry (memWrite d s)).goto .fetch) := by
  rw [latch_write]
  exact ⟨List.prefix_rfl, List.prefix_rfl, rfl, fun h => ⟨rfl, if_pos h⟩⟩

theorem grows_runVerdict (v : Verdict) (s : State) : Grows s (runVerdict v s) := by
  cases v with
  | nothing => exact grows_of_eq rfl rfl rfl rfl rfl
  | skip r => exact grows_of_events (l := [_]) rfl rfl rfl rfl rfl
  | record a d => exact grows_of_eq rfl rfl rfl rfl rfl

theorem grows_afterIdentify (u : State) : Grows u (afterIdentify u) := by
  rcases afterIdentify_cases u with ⟨-, h⟩ | ⟨-, h⟩ <;> rw [h]
  · exact grows_of_eq rfl rfl rfl rfl rfl
  · exact grows_finished u

theorem exchange_grows {p : List Byte} (hp : exchangePayload i = some p) (he : exec i s = .next t) : Grows s t := by
  obtain ⟨k, o, out, txs, rxs, n, l, -, -, -, h⟩ := exec_exchange_cases hp s
  have hu : Grows s { s with
      cks := k, outcomeValid := true, outcome := o, tx := s.tx ++ out, txIn := txs, rxIn := rxs, draws := n,
      trace := s.trace ++ l } := grows_append rfl rfl rfl rfl rfl
  rcases h with ⟨-, -, -, ⟨q, -, h⟩ | ⟨d, -, -, h⟩ | ⟨e, -, -, h⟩⟩ | ⟨c, -, h⟩ <;> cases he.symm.trans h
  · exact ⟨hu.trace, hu.tx, hu.cfg, hu.entry⟩
  · exact hu.trans (grows_write d _)
  · exact hu.trans (grows_finished _)
  · exact hu.trans (grows_aborted _ _ _ _)

theorem response_grows (hi : i = .getverResp ∨ i = .getidResp ∨ i = .rdresp) (he : exec i s = .next t) : Grows s t := by
  obtain ⟨rxs, m, a, h⟩ := exec_response_cases hi s
  have hu : ∀ x, Grows s { s with
      rxIn := rxs, draws := m, trace := s.trace ++ [.rxRead 4 s.cfg.tResp a], resp := x } := fun x =>
    grows_of_events rfl rfl rfl rfl rfl
  rcases h with ⟨bs, -, -, ⟨-, h⟩ | ⟨-, h⟩ | ⟨-, h⟩⟩ | h | h <;> cases he.symm.trans h
  · exact (hu _).trans (grows_of_events (l := [_]) rfl rfl rfl rfl rfl)
  · refine (hu (respOf bs)).trans (.trans ?_ (grows_afterIdentify _))
    exact grows_of_events (l := [_]) rfl rfl rfl rfl rfl
  · exact hu _
  · exact (hu s.resp).trans (grows_aborted _ _ _ _)
  · exact (hu s.resp).trans (grows_aborted _ _ _ _)

theorem sync_grows (he : exec .sync s = .next t) : Grows s t := by
  obtain ⟨j, out, txs, rxs, n, l, -, -, -, ⟨h, -, -⟩ | ⟨c, -, h⟩⟩ := exec_sync_cases s <;> cases he.symm.trans h
  · exact grows_append rfl rfl rfl rfl rfl
  · exact grows_append (List.append_assoc ..) rfl rfl rfl rfl

theorem fetch_grows (he : exec .fetch s = .next t) : Grows s t := by
  rcases exec_fetch_cases s with ⟨-, h⟩ | ⟨cs, rest, -, ⟨-, h⟩ | ⟨-, h⟩⟩ <;> cases he.symm.trans h
  · exact grows_of_events (l := [_]) rfl rfl rfl rfl rfl
  · refine .trans ?_ (grows_runVerdict _ _)
    exact grows_of_events (l := [_]) rfl rfl rfl rfl rfl

theorem xchg_grows (p : List Byte) (r : ReplyTimeout) (s : State) : Grows s (xchg p r s) := by
  obtain ⟨k, o, out, txs, rxs, n, l, h, -⟩ := xchg_spec p r s
  rw [h]
  exact grows_append rfl rfl rfl rfl rfl

theorem replyByte_grows (hi : i = .ack ∨ ∃ b, i = .nack b) (he : exec i s = .next t) : Grows s t := by
  rcases hi with rfl | ⟨b, rfl⟩
  · simp only [exec, execAck] at he
    split at he <;> cases he <;> exact grows_of_eq rfl rfl rfl rfl rfl
  · simp only [exec, execNack] at he
    split at he <;> cases he <;> exact grows_of_eq rfl rfl rfl rfl rfl

theorem start_grows {img : Bool} (he : exec (.start img) s = .next t) : Grows s t := by
  simp only [exec, execStart] at he
  split at he <;> cases he <;> exact grows_of_eq rfl rfl rfl rfl rfl

theorem decode_grows (s : State) : Grows s (recordRegs (lineVerdict s) s) := by
  cases lineVerdict s <;> exact grows_of_eq rfl rfl rfl rfl rfl

theorem exec_grows (he : exec i s = .next t) : Grows s t := by
  cases i
  case sync => exact sync_grows he
  case getverCmd | getidCmd | wrmemCmd | wrmemAddr | wrmemData | goCmd | goAddr => exact exchange_grows rfl he
  case getverResp => exact response_grows (.inl rfl) he
  case getidResp => exact response_grows (.inr (.inl rfl)) he
  case rdresp => exact response_grows (.inr (.inr rfl)) he
  case xchg p r =>
    cases he
    exact xchg_grows p r s
  case ack => exact replyByte_grows (.inl rfl) he
  case nack b => exact replyByte_grows (.inr ⟨b, rfl⟩) he
  case blank | skipTag | skipHdr | skipLen | skipData | record =>
    cases he
    exact grows_runVerdict _ s
  case start => exact start_grows he
  case fetch => exact fetch_grows he
  case decode =>
    cases he
    exact decode_grows s
  case finish =>
    cases he
    rw [finish_eq]
    exact grows_finished s
  case fatal p c =>
    cases he
    rw [fatal_eq]
    exact grows_aborted _ _ _ _

theorem runSelected_grows (h : runSelected s = .next t) : Grows s t := by
  unfold runSelected at h
  split at h
  · have hg := exec_grows h
    exact ⟨hg.trace, hg.tx, hg.cfg, hg.entry⟩
  · split at h
    · exact exec_grows h
    · cases h
      exact .refl s

/-- Whatever operation runs, called or selected, a step without `RESET` grows. -/
theorem step_grows (hctl : s.ctl.head? ≠ some .reset) (h : step s = .next t) : Grows s t := by
  unfold step at h
  split at h
  · next hq => simp [hq] at hctl
  · have hg := exec_grows h
    exact ⟨hg.trace, hg.tx, hg.cfg, hg.entry⟩
  · have hg := runSelected_grows h
    exact ⟨hg.trace, hg.tx, hg.cfg, hg.entry⟩
  · exact runSelected_grows h

end

/-- Settles O50. -/
theorem entryAddressIsSetOnce : Obligations.EntryAddressIsSetOnce := fun _ _ hctl hv h => (step_grows hctl h).entry hv

/-- Settles O53. -/
theorem traceAndTransmitOnlyGrow : Obligations.TraceAndTransmitOnlyGrow :=
  fun _ _ hctl h => ⟨(step_grows hctl h).trace, (step_grows hctl h).tx⟩

/-- Settles O54: without `RESET` a step grows, and `RESET` keeps the configuration. -/
theorem configurationIsConstant : Obligations.ConfigurationIsConstant := by
  intro s t h
  by_cases hctl : s.ctl.head? = some .reset
  · obtain ⟨cs, hcs⟩ := List.head?_eq_some_iff.1 hctl
    rw [step_reset hcs] at h
    split at h <;> cases h
    rfl
  · exact (step_grows hctl h).cfg

end Sys2Proof.Machine
end

section
/-! PROOFS. What a step of a run does to the write log, what stops a run, that a session ends, and what a failure leaves and a
host reads (10_state.md sections 6 to 8; 43_orchestrator.md section 5; 60_exceptions.md sections 1 and 4). -/

namespace Sys2Proof.Machine

open Sys2Proof.Safety

/-! ### Facts about the operation of a phase -/

section
variable {s t : State}

theorem runVerdict_frame (v : Verdict) (u : State) :
    (runVerdict v u).ctl = u.ctl ∧ (runVerdict v u).cfg = u.cfg ∧ (runVerdict v u).img = u.img ∧
    (runVerdict v u).wlog = u.wlog := by
  cases v <;> exact ⟨rfl, rfl, rfl, rfl⟩

/-- The operation of a phase leaves the queue and the configuration, and no line appears in the image. -/
theorem effect_frame (he : Effect s t) : t.ctl = s.ctl ∧ t.cfg = s.cfg ∧ ∀ cs ∈ t.img, cs ∈ s.img := by
  cases he with
  | @line cs rest _ himg _ =>
    obtain ⟨hctl, hcfg, himg', -⟩ := runVerdict_frame (decodeLine s.cfg.hexLower cs) (latchLine cs rest s)
    refine ⟨hctl, hcfg, fun c hc => ?_⟩
    rw [himg'] at hc
    rw [himg]
    exact List.mem_cons_of_mem cs hc
  | wrote _ _ _ =>
    rw [latch_write]
    exact ⟨rfl, rfl, fun _ hc => hc⟩
  | _ => exact ⟨rfl, rfl, fun _ hc => hc⟩

/-- Only an acknowledged data exchange writes the log, by the record in hand. -/
theorem effect_wlog (he : Effect s t) : t.wlog = s.wlog ∨
    s.ph = .wrData ∧ t.ph = .fetch ∧ t.outcome = .acknowledged ∧
      ∃ a d, t.wlog = s.wlog ++ [(a, d)] ∧ (s.recValid = true → a = s.recAddr ∧ d = recordBytes s) := by
  cases he with
  | line _ _ _ => exact .inl (runVerdict_frame _ _).2.2.2
  | @wrote r _ hp ho =>
    rw [latch_write]
    exact .inr ⟨hp, rfl, ho, heldAddr (s.after r), heldBytes s, rfl,
      fun hv => ⟨heldAddr_valid (s := s.after r) hv, heldBytes_valid hv⟩⟩
  | _ => exact .inl rfl

/-- An operation that ends in `FAIL` took the abort path at its phase. -/
theorem effect_fail (he : Effect s t) (ht : t.ph = .fail) : ∃ r c, fatalPair s.ph c = true ∧
    t = aborted s.ph c (kindOf c) (s.after r) := by
  cases he with
  | moved _ hq => exact absurd ht (terminal_of_inSession (moveOf_keeps hq).2.1).2.2
  | @line cs rest hp _ _ =>
    rcases runVerdict_ph (decodeLine s.cfg.hexLower cs) (latchLine cs rest s) with hph | hph
    · cases ht.symm.trans (hph.trans hp)
    · cases ht.symm.trans hph
  | @failed r c _ hc => exact ⟨r, c, hc, rfl⟩
  | _ => cases ht

/-- Each operation of a session ends it or uses up some of the budget. -/
theorem effect_budget (he : Effect s t) : terminal t.ph = true ∨ inSession t.ph = true ∧ budget t < budget s := by
  cases he with
  | @moved r q _ hq =>
    refine .inr ⟨(moveOf_keeps hq).2.1, ?_⟩
    cases hp : s.ph <;> rw [hp] at hq <;> cases hq <;> simp [budget, State.after, hp]
  | version _ _ hp => exact .inr ⟨rfl, by simp [budget, latchVersion, State.after, hp]⟩
  | product _ _ hp _ => exact .inr ⟨rfl, by simp [budget, latchProductId, State.after, hp]⟩
  | identified _ _ _ _ => exact .inl rfl
  | eof hp himg => exact .inr ⟨rfl, by simp [budget, hp, himg]⟩
  | @line cs rest hp himg _ =>
    refine .inr ?_
    have hbudget : budget s = 4 * rest.length + 7 := by
      simp only [budget, hp, himg, List.length_cons]
      omega
    have hs : inSession s.ph = true := by rw [hp]; rfl
    rw [hbudget]
    cases decodeLine s.cfg.hexLower cs with
    | nothing => exact ⟨hs, by simp [budget, runVerdict, afterDecode, recordRegs, latchLine, hp]⟩
    | skip r =>
      exact ⟨hs, by simp [budget, runVerdict, afterDecode, recordRegs, discardRecord, latchLine, hp]⟩
    | record a d => exact ⟨rfl, by simp [budget, runVerdict, afterDecode, recordRegs, writeRecord, latchLine]⟩
  | wrote _ hp _ =>
    rw [latch_write]
    exact .inr ⟨rfl, by simp [budget, State.after, hp]⟩
  | jumped _ _ => exact .inl rfl
  | failed _ _ => exact .inl rfl

end

/-! ### The write log and the transport -/

/-- Settles O51, by what a step can do. -/
theorem writeLogGrowsByTheRecordInHand : Obligations.WriteLogGrowsByTheRecordInHand := by
  intro s t hctl hcall h
  cases step_effect hcall h with
  | reset hq _ => simp [hq] at hctl
  | started _ _ => exact .inl rfl
  | rested _ _ => exact .inl rfl
  | ran _ he =>
    have hw := effect_wlog he
    exact hw

/-- Settles O52: outside a session no operation is selected. -/
theorem noRequestUnlessHeld : Obligations.NoRequestUnlessHeld := by
  intro s t h hheld hctl hstep
  have hout : inSession s.ph = false := h.held.symm.trans hheld
  cases step_effect h.noCall hstep with
  | reset hq _ => simp [hq] at hctl
  | @started image cs hq hp =>
    refine ⟨rfl, rfl, rfl, rfl, ?_⟩
    cases image with
    | none => exact .inl rfl
    | some ls => exact .inr ⟨ls, cs, hp, hq, rfl⟩
  | rested _ _ => exact ⟨rfl, rfl, rfl, rfl, .inl rfl⟩
  | ran _ he =>
    have hs := effect_inSession he
    exact absurd (hout.symm.trans hs) (by simp)

/-! ### What stops a run, and its end -/

theorem runSelected_total {u : State} (hcall : u.call = none) : (∃ t, runSelected u = .next t) ∨
    runSelected u = .refused .lineTooLong ∧ u.ph = .fetch ∧ ∃ cs rest, u.img = cs :: rest ∧ u.cfg.lineMax < cs.length := by
  cases hsel : select u with
  | rest => exact .inl ⟨u, by simp only [runSelected, hcall, hsel]⟩
  | op i =>
    rw [runSelected_op hcall hsel]
    rcases exec_selected hsel with ⟨t, he, -⟩ | hlong
    · exact .inl ⟨t, he⟩
    · exact .inr hlong

/-- Settles O55, by the input at the boundary. -/
theorem onlyTheHostCanStopARun : Obligations.OnlyTheHostCanStopARun := by
  intro s h
  cases hctl : s.ctl with
  | nil =>
    rw [step_noInput hctl]
    exact (runSelected_total h.noCall).imp_right .inl
  | cons x cs =>
    cases x with
    | quiet =>
      rw [step_quiet hctl]
      exact (runSelected_total (u := { s with ctl := cs }) h.noCall).imp_right .inl
    | start image =>
      by_cases hp : s.ph = .idle
      · exact .inl ⟨_, (step_start hctl).1 hp⟩
      · exact .inl ⟨_, (step_start hctl).2 hp⟩
    | reset =>
      rw [step_reset hctl]
      cases hp : inSession s.ph with
      | true => exact .inr (.inr ⟨rfl, rfl, rfl⟩)
      | false => exact .inl ⟨_, rfl⟩

/-- A step of a session without input runs the operation of the phase. -/
theorem step_in_session {s : State} (hcall : s.call = none) (hctl : s.ctl = []) (hp : inSession s.ph = true)
    (hlines : ∀ cs ∈ s.img, cs.length ≤ s.cfg.lineMax) : ∃ t, step s = .next t ∧ Effect s t := by
  cases hsel : select s with
  | rest => exact absurd (hp.symm.trans (select_rest_iff.1 hsel)) (by simp)
  | op i =>
    rw [step_selected hctl hcall hsel]
    rcases exec_selected hsel with hnext | ⟨-, -, cs, rest, himg, hover⟩
    · exact hnext
    · have := hlines cs (by simp [himg])
      omega

theorem session_ends (n : Nat) : ∀ s : State, budget s ≤ n → Inv s → s.ctl = [] → inSession s.ph = true →
    (∀ cs ∈ s.img, cs.length ≤ s.cfg.lineMax) →
    ∃ k t, k ≤ budget s ∧ Host.Core.run core k s = .next t ∧ terminal t.ph = true := by
  induction n with
  | zero =>
    intro s hn _ _ hp _
    exfalso
    revert hn hp
    unfold budget
    cases s.ph <;> simp [inSession]
  | succ n ih =>
    intro s hn h hctl hp hlines
    obtain ⟨t, hstep, he⟩ := step_in_session h.noCall hctl hp hlines
    obtain ⟨htctl, htcfg, htimg⟩ := effect_frame he
    have hpos : 0 < budget s := by
      revert hp
      unfold budget
      cases s.ph <;> simp [inSession]
    rcases effect_budget he with hend | ⟨htp, hlt⟩
    · exact ⟨1, t, hpos, run_succ_of_step 0 hstep, hend⟩
    · obtain ⟨k, u, hk, hrun, hu⟩ := ih t (by omega) (effect_keeps_inv h he) (htctl.trans hctl) htp
        fun cs hcs => by
          rw [htcfg]
          exact hlines cs (htimg cs hcs)
      exact ⟨k + 1, u, by omega, (run_succ_of_step k hstep).trans hrun, hu⟩

/-- Settles O56, by induction on the budget. -/
theorem sessionEnds : Obligations.SessionEnds := fun s => session_ends (budget s) s le_rfl

/-! ### A failure, and what a host reads -/

/-- Settles O57: a step into `FAIL` is the abort path after the requests of the phase's operation. -/
theorem failureKeepsTheOtherRegisters : Obligations.FailureKeepsTheOtherRegisters := by
  intro s t hp hctl hcall h ht
  cases step_effect hcall h with
  | reset hq _ => simp [hq] at hctl
  | started _ _ => cases ht
  | rested _ _ => exact absurd ht hp
  | ran _ he =>
    obtain ⟨r, c, hc, rfl⟩ := effect_fail he ht
    have hclass : c ≠ .none := by
      rintro rfl
      revert hc
      cases s.ph <;> simp [fatalPair]
    refine ⟨rfl, hclass, rfl, rfl, rfl, rfl, rfl, rfl, rfl, rfl, rfl, rfl, rfl, rfl, rfl, rfl, rfl, rfl, rfl, rfl, rfl, rfl,
      fun hrec hv => ?_, fun hv => if_pos hv, fun hv => if_pos hv⟩
    simp [hostView, failedAddr, aborted, State.after, hrec, hv]

/-- Settles O58: `FAIL` is outside a session, so a step without `RESET` rests. -/
theorem failIsTerminal : Obligations.FailIsTerminal := by
  intro s t hp hcall h
  cases step_effect hcall h with
  | reset hq _ => exact ⟨fun hne => by simp [hq] at hne, fun _ => rfl⟩
  | started _ hidle => cases hp.symm.trans hidle
  | rested hctl _ => exact ⟨fun _ => rfl, fun hreset => absurd hreset hctl⟩
  | ran _ he =>
    have hs := effect_inSession he
    simp [hp, inSession] at hs

/-- The codes of the 27 pairs. -/
theorem fatalPair_codes {p : Phase} {c : FailClass} (h : fatalPair p c = true) :
    failStepCode (some p) ∉ [0, 6, 12, 13] ∧ failClassCode c ≠ 0 ∧ errKindCode (kindOf c) ≠ 0 ∧
    (failStepCode (some p) ∈ [7, 8, 9] ↔ inRecord p = true) := by
  cases p <;> cases c <;> cases h <;> decide

/-- Settles O60, from the invariant's clauses on the status group. -/
theorem hostReadsBehindTheGuards : Obligations.HostReadsBehindTheGuards := by
  intro s h
  refine ⟨fun hp => ?_, fun hp => ?_, fun hp => ?_, rfl, ?_, rfl, rfl, rfl⟩
  · simp [hostView, hp]
  · simp [hostView, hp, terminal, h.exitDone hp, exitCode, (h.noFailure (by rw [hp]; simp)).1, failStepCode]
  · obtain ⟨p, hstep, hpair, hkind⟩ := h.failure hp
    obtain ⟨hcode, hclass, herr, -⟩ := fatalPair_codes hpair
    simp only [hostView, hstep, hkind]
    exact ⟨by simp [hp, terminal, h.exitFail hp, exitCode], hcode, hclass, herr⟩
  · by_cases hp : s.ph = .fail
    · obtain ⟨p, hstep, hpair, -⟩ := h.failure hp
      have hrec := h.failedRecord p hstep
      have hcode := (fatalPair_codes hpair).2.2.2
      simp only [hostView, failedAddr, hp, hstep, true_and, if_true, hcode, Bool.and_eq_true]
      by_cases hr : inRecord p = true
      · simp [hr, hrec hr]
      · simp [hr]
    · simp [hostView, hp]

/-! ### Reset -/

/-- Settles O44. -/
theorem resetValues : Obligations.ResetValues :=
  ⟨rfl, rfl, rfl, rfl, rfl, rfl, rfl, rfl, rfl, rfl, rfl, rfl, rfl, rfl, rfl⟩

/-- Settles O45: nothing is called, and no request was made. -/
theorem resetMeetsTheInvariants : Obligations.ResetMeetsTheInvariants := by
  refine fun c => ⟨?_, fun _ => rfl, fun _ => ⟨rfl, rfl⟩⟩
  exact inv_resetRegs (s := { State.reset with cfg := c }) rfl

end Sys2Proof.Machine
end
